-- ==== Sys2Proof/Word.lean ====
section
/-! DEFINITION. The bit vectors that cross the port or stand in the registers (spec/00_scope.md R8: bit 0 is the least significant). -/

namespace Sys2Proof

/-- A 48-bit generator state, `state[47:0]` (R10). -/
abbrev Word48 := BitVec 48

/-- A 32-bit slice of a generator state, or a binary32 pattern (R50, R54). -/
abbrev Word32 := BitVec 32

/-- A 64-bit operand or result, `arg[63:0]` or `data[63:0]` (R21). -/
abbrev Word64 := BitVec 64

/-- An opcode, `op[7:0]` (R30). -/
abbrev Opcode := BitVec 8

/-- A whole command, `cmd[71:0] = op || arg` (R30). -/
abbrev Cmd := BitVec 72

/-- A whole response, `rsp[65:0] = status || data` (R36). -/
abbrev Rsp := BitVec 66

end Sys2Proof
end

