-- ==== Sys2Proof/Syntax.lean ====
section
/-! DEFINITION. The five commands (spec/30_encoding.md R33) and the lines of the spec's assembler text (R37). -/

namespace Sys2Proof

/-- One constructor per row of the opcode table. Only SEED has an operand; the `arg` of the four step commands is ignored
(R32), so two commands that differ there are one `Instr` (95_test_vectors.md V15). -/
inductive Instr where
  /-- SEED, `op = 0x01`, `arg` = the seed (R41). -/
  | seed (arg : Word64)
  /-- RAW_NEXT, `op = 0x02` (R47). -/
  | rawNext
  /-- NEXT_U32, `op = 0x03` (R51). -/
  | nextU32
  /-- NEXT_I32, `op = 0x04` (R52). -/
  | nextI32
  /-- NEXT_UNIFORM, `op = 0x05` (R56). -/
  | nextUniform
deriving DecidableEq, Repr

/-- A line of the assembler text (R37). A literal is the number as written; whether it fits its field is checked by
`AsmLine.wellFormed`. -/
inductive AsmLine where
  | seed (literal : Nat)
  | rawNext
  | nextU32
  | nextI32
  | nextUniform
  /-- `.op 0xNN`, an opcode given by number, legal or not. -/
  | op (literal : Nat)
deriving DecidableEq, Repr

end Sys2Proof
end

