-- ==== Sys2Proof/WellFormed.lean ====
section
/-! DEFINITION. What the port accepts: the opcodes that name a command (spec/30_encoding.md R33, R34), and the assembler
lines whose literals fit (R37). Every `Instr` is well formed: the one operand is "any 64-bit unsigned integer,
unconstrained" (R32). -/

namespace Sys2Proof

/-- `op` is one of the five defined opcodes; the other 251 are illegal (R34). -/
def legalOpcode (op : Opcode) : Bool := 0x01 ≤ op && op ≤ 0x05

/-- A seed literal has 64 bits, an opcode literal 8 (R37, R30). -/
def AsmLine.wellFormed : AsmLine → Bool
  | .seed literal => literal < 2 ^ 64
  | .op literal => literal < 2 ^ 8
  | .rawNext | .nextU32 | .nextI32 | .nextUniform => true

end Sys2Proof
end

