-- ==== Sys2Proof/Decode.lean ====
section
/-! DEFINITION. The command format CMD, its decoder and its encoder (spec/30_encoding.md R30 to R34). -/

namespace Sys2Proof

/-- Why a command word is no command (R34): the opcode it carries. -/
inductive DecodeError where
  | illegalCommand (op : Opcode)
deriving DecidableEq, Repr

/-- `op = cmd[71:64]` (R30). -/
def opField (c : Cmd) : Opcode := c.extractLsb' 64 8

/-- `arg = cmd[63:0]` (R30, R32: no extension, scaling or shift). -/
def argField (c : Cmd) : Word64 := c.extractLsb' 0 64

/-- `cmd = op || arg` (R30). -/
def packCommand (op : Opcode) (arg : Word64) : Cmd := op ++ arg

/-- The instruction a 72-bit command stands for (R33), or the illegal opcode by name (R34). -/
def decode (c : Cmd) : Except DecodeError Instr :=
  if opField c = 0x01 then .ok (.seed (argField c))
  else if opField c = 0x02 then .ok .rawNext
  else if opField c = 0x03 then .ok .nextU32
  else if opField c = 0x04 then .ok .nextI32
  else if opField c = 0x05 then .ok .nextUniform
  else .error (.illegalCommand (opField c))

/-- The opcode of an instruction (R33). -/
def opcodeOf : Instr → Opcode
  | .seed _ => 0x01
  | .rawNext => 0x02
  | .nextU32 => 0x03
  | .nextI32 => 0x04
  | .nextUniform => 0x05

/-- The operand of an instruction; "the commands without an operand assemble with `arg = 0`" (R37). -/
def argOf : Instr → Word64
  | .seed arg => arg
  | .rawNext | .nextU32 | .nextI32 | .nextUniform => 0

/-- The command word of an instruction (R30, R33). -/
def encode (i : Instr) : Cmd := packCommand (opcodeOf i) (argOf i)

/-- The 72-bit command whose low `nbits` bits are those of `w` and whose other bits are 0. -/
def commandOfTableWord (nbits w : Nat) : Cmd := BitVec.ofNat 72 (w % 2 ^ nbits)

/-- The decoder on a word numbered as spec/opcode_table.json numbers it: there `cmd[71:0]` is one number, bit 0 its least
significant, and the block has no byte order to undo (R22). No command is longer than 72 bits (R30). -/
def decodeTableWord (nbits w : Nat) : Option Instr :=
  if nbits ≤ 72 then
    match decode (commandOfTableWord nbits w) with
    | .ok i => some i
    | .error _ => none
  else none

end Sys2Proof
end

