-- ==== Sys2Proof/Config.lean ====
section
/-! DEFINITION. The fixed constants of the hardware (spec/00_scope.md R6). None is configurable and no command changes one.
The open parameters PORT_PROTOCOL and LATENCY (R7) have no constant here: no rule depends on them. No command leaves a value
open, so there is no free value. -/

namespace Sys2Proof.Config

/-- `A`, the multiplier (R6). -/
def multiplier : Nat := 0x5DEECE66D

/-- `C`, the increment (R6). -/
def increment : Nat := 0xB

/-- `SCRAMBLE`, the low 16 bits of every freshly seeded state (R6). -/
def scrambleConstant : BitVec 16 := 0x330E

/-- `DIVISOR`, the divisor of the unit-interval output, `2^32 - 1` (R6). -/
def divisor : Nat := 0xFFFFFFFF

/-- Precision `p` and bias of binary64 (R54). -/
def binary64Precision : Nat := 53
def binary64Bias : Nat := 1023

/-- Precision `p` and bias of binary32 (R54). -/
def binary32Precision : Nat := 24
def binary32Bias : Nat := 127

end Sys2Proof.Config
end

