-- ==== Sys2Proof/Machine/Datapath.lean ====
section
/-! DEFINITION. The combinational functions of the integer path: the seed scrambler, the 48-bit modular arithmetic engine
and the integer slice (spec/40_seed.md R40, spec/41_step.md R45, spec/42_slice_int.md R50). -/

namespace Sys2Proof.Machine

/-- `scramble(seed) = seed[31:0] || 0x330E` (R40). -/
def scramble (seed : Word64) : Word48 := seed.extractLsb' 0 32 ++ Config.scrambleConstant

/-- `muladd48(s) = (A * s + C) mod 2^48`, exact before the reduction (R45). -/
def muladd48 (s : Word48) : Word48 := BitVec.ofNat 48 (Config.multiplier * s.toNat + Config.increment)

/-- `hi32(s) = s[47:16]` (R50). -/
def hi32 (s : Word48) : Word32 := s.extractLsb' 16 32

end Sys2Proof.Machine
end

