-- ==== Sys2Proof/Machine/State.lean ====
section
/-! DEFINITION. The state of the block (spec/10_state.md R10 to R17), what the host presents to it, and what it answers. -/

namespace Sys2Proof.Machine

/-- The three fault causes (R13, R61). Each is a HARDWARE fault that the block takes and goes on from. -/
inductive Cause where
  /-- Code 1: a step command while unseeded. -/
  | notSeeded
  /-- Code 2: an opcode that names no command. -/
  | illegalCommand
  /-- Code 3: NEXT_UNIFORM whose result is not in `[0, 1)`. -/
  | unitInterval
deriving DecidableEq, Repr

/-- A response at the model level (spec/30_encoding.md R36): one of three shapes. -/
inductive Response where
  /-- SEED executed. -/
  | done
  /-- A value was delivered, already placed in `data[63:0]`. -/
  | ok (data : Word64)
  /-- The command raised a fault or was refused; no value. -/
  | fault (cause : Cause)
deriving DecidableEq, Repr

/-- What the host does at the block's port. -/
inductive HostInput where
  /-- Present the command `cmd[71:0]` (R21, R30). -/
  | command (cmd : Cmd)
  /-- Assert `rst` between commands (R70). -/
  | reset
  /-- Assert `rst` while the command is in progress: the command is abandoned (R70). -/
  | resetDuring (cmd : Cmd)
deriving DecidableEq, Repr

/-- The state of one block and its port. `state` and `fault` are the spec's registers; `seeded` is "`state` is some value",
the layout R12 asks of a model (notes/assumptions/1.md). -/
structure State where
  /-- `state[47:0]`, R10; `none` while `seeded = 0`, when the register holds no value (R12). -/
  state : Option Word48
  /-- `fault[1:0]`, R13: the first fault since reset; `none` is the code NONE. -/
  fault : Option Cause
  /-- The response to the command the last step executed; `none` if it executed none (R21, notes/assumptions/3.md). -/
  response : Option Response
  /-- What the host has still to present, first to last (R9, R25; the model's own field, notes/assumptions/2.md). -/
  inputs : List HostInput
deriving DecidableEq, Repr

/-- Why a step may stop the machine: never. The spec gives every input an effect in every state and its faults are taken as
next states (R35, R63, R65), so nobody raises one; that no state is stuck is safe (notes/assumptions/7.md). -/
inductive Fault where
deriving DecidableEq, Repr

/-- Why an instruction may have no meaning. -/
inductive Refusal where
  /-- Raised by an arm of `exec` whose instruction has no meaning yet; no arm does. Safe: the machine stops by name. -/
  | notModelled (mnemonic : String)
deriving DecidableEq, Repr

/-- Right after reset (R17, R70): no value in `state` (so `seeded = 0`), `fault = NONE`; no response has been given and the
host has presented nothing. -/
def State.reset : State where
  state := none
  fault := none
  response := none
  inputs := []

end Sys2Proof.Machine
end

