-- ==== Sys2Proof/Machine/Flags.lean ====
section
/-! DEFINITION. The `seeded` flag, the fault codes and the status outputs (spec/10_state.md R12, R13, R15). The block has no
other flag: no condition code and no floating-point flag (R14). -/

namespace Sys2Proof.Machine

/-- The code of a fault cause (R13, R61). -/
def causeCode : Cause → BitVec 2
  | .notSeeded => 1
  | .illegalCommand => 2
  | .unitInterval => 3

/-- The two bits of the `fault` register (R13). -/
def faultCode : Option Cause → BitVec 2
  | none => 0
  | some c => causeCode c

/-- `seeded_o`, which follows the flag `seeded` (R12, R15). -/
def State.seededO (s : State) : BitVec 1 := BitVec.ofBool s.state.isSome

/-- `fault_o[1:0]`, which follows the register `fault` (R13, R15). -/
def State.faultO (s : State) : BitVec 2 := faultCode s.fault

/-- `STATUS[2:0] = fault[1:0] || seeded` (R15). -/
def State.status (s : State) : BitVec 3 := s.faultO ++ s.seededO

end Sys2Proof.Machine
end

