-- ==== Sys2Proof/Machine/Operands.lean ====
section
/-! DEFINITION. What crosses the port besides the opcode: how each result is placed in `data[63:0]`, and the wire image of a
response (spec/20_memory.md R21, spec/30_encoding.md R36). The one operand form, `seed = arg[63:0]` (R32), is `argField`. -/

namespace Sys2Proof.Machine

/-- RAW_NEXT: `zext_64` of the 48-bit new state, so `data[63:48] = 0` (R36). -/
def rawData (v : Word48) : Word64 := v.setWidth 64

/-- NEXT_U32: `zext_64` of 32 bits (R36). -/
def unsignedData (u : Word32) : Word64 := u.setWidth 64

/-- NEXT_I32: `sext_64` of 32 bits, so `data[63:32]` repeats bit 31 (R36). -/
def signedData (u : Word32) : Word64 := u.signExtend 64

/-- NEXT_UNIFORM: `zext_64` of the binary32 pattern (R36). -/
def floatData (pattern : Word32) : Word64 := pattern.setWidth 64

/-- `status[1:0]`: 0 for OK, else the fault code (R36). -/
def Response.statusField : Response → BitVec 2
  | .done => 0
  | .ok _ => 0
  | .fault c => causeCode c

/-- `data[63:0]` on the wire: 0 for Done and Fault (R36). -/
def Response.dataField : Response → Word64
  | .done => 0
  | .ok data => data
  | .fault _ => 0

/-- `rsp = status || data` (R36). -/
def Response.wire (r : Response) : Rsp := r.statusField ++ r.dataField

/-- The value a response delivers: Done and Fault carry none (93_implementation_defined.md U4). -/
def Response.value : Response → Option Word64
  | .ok data => some data
  | .done => none
  | .fault _ => none

end Sys2Proof.Machine
end

