-- ==== Sys2Proof/Machine/Ops.lean ====
section
/-! DEFINITION. The operations the commands share: responding, taking a fault, refusing, the checks of the dispatch, the
step, and reset. -/

namespace Sys2Proof.Machine

/-- `respond`: the command ends with this response (spec/00_scope.md R8). -/
def respond (r : Response) (s : State) : State := { s with response := some r }

/-- `raise Fault(code)`, executed with `fault = 0` (spec/60_exceptions.md R63): the code is latched, no value is delivered,
and nothing else changes. There is no return from a fault; `assertReset` is the only way out (R65). -/
def raiseFault (c : Cause) (s : State) : State := respond (.fault c) { s with fault := some c }

/-- A command refused because `fault != 0`: no register changes and the held code is reported (R65). -/
def refuse (held : Cause) (s : State) : State := respond (.fault held) s

/-- Step 1 of the dispatch (spec/30_encoding.md R35): a faulted block refuses, another goes on. -/
def unlessFaulted (k : State → State) (s : State) : State :=
  match s.fault with
  | some held => refuse held s
  | none => k s

/-- Step 4 of the dispatch (R35): a step command on an unseeded block raises NOT_SEEDED. -/
def whenSeeded (k : Word48 → State → State) (s : State) : State :=
  match s.state with
  | some v => k v s
  | none => raiseFault .notSeeded s

/-- The write `state <- v` (R11). -/
def writeState (v : Word48) (s : State) : State := { s with state := some v }

/-- A step command (R35, spec/41_step.md R47): the two checks, then `Step()`, whose result `s'` is written to `state` and
handed to the command's own slice. -/
def stepCommand (slice : Word48 → State → State) (s : State) : State :=
  unlessFaulted (whenSeeded fun v t => slice (muladd48 v) (writeState (muladd48 v) t)) s

/-- An opcode that names no command (R34, R35 step 2). -/
def illegalCommand (s : State) : State := unlessFaulted (raiseFault .illegalCommand) s

/-- `rst` asserted, or power-on (spec/70_reset_and_hazards.md R70): unseeded, no fault, no response. A command in progress
leaves nothing behind. -/
def assertReset (s : State) : State := { s with state := none, fault := none, response := none }

/-- No command presented: the block is idle and gives no response (R21, R68). -/
def idle (s : State) : State := { s with response := none }

end Sys2Proof.Machine
end

