-- ==== Sys2Proof/Machine/RawNext.lean ====
section
/-! DEFINITION. RAW_NEXT (spec/41_step.md R47). -/

namespace Sys2Proof.Machine

/-- RAW_NEXT: one step, then the whole new state. -/
def execRawNext (s : State) : Host.Outcome State Fault Refusal :=
  .next (stepCommand (fun v => respond (.ok (rawData v))) s)

end Sys2Proof.Machine
end

