-- ==== Sys2Proof/Machine/Seed.lean ====
section
/-! DEFINITION. SEED (spec/40_seed.md R41, R43). -/

namespace Sys2Proof.Machine

/-- `Seed(arg)`: `state <- scramble(arg)`, which also sets `seeded`; `respond Done` (R41). Allowed seeded or not (R43). -/
def seedGenerator (arg : Word64) (s : State) : State := respond .done (writeState (scramble arg) s)

/-- SEED. -/
def execSeed (arg : Word64) (s : State) : Host.Outcome State Fault Refusal :=
  .next (unlessFaulted (seedGenerator arg) s)

end Sys2Proof.Machine
end

