-- ==== Sys2Proof/Machine/Float.lean ====
section
/-! DEFINITION. The floating-point primitives and the float slice, on exact non-negative rationals (spec/43_slice_float.md
R54, R55). -/

namespace Sys2Proof.Machine

/-- An exact non-negative rational `num / den`, `den > 0`. -/
structure Ratio where
  num : Nat
  den : Nat
deriving DecidableEq, Repr

/-- `x * 2^k`. -/
def Ratio.scale (x : Ratio) (k : Int) : Ratio := ⟨x.num * 2 ^ k.toNat, x.den * 2 ^ (-k).toNat⟩

/-- The integer `e` with `2^e <= x < 2^(e+1)`, for `x > 0` (R54). The difference of the bit lengths is `e` or `e + 1`. -/
def Ratio.exponent (x : Ratio) : Int :=
  let k : Int := (x.num.log2 : Int) - (x.den.log2 : Int)
  let y := x.scale (-k)
  if y.den ≤ y.num then k else k - 1

/-- `floor(x)` rounded up where the rest is above one half, or is one half and the floor is odd (R54). -/
def Ratio.roundTiesToEven (x : Ratio) : Nat :=
  let n := x.num / x.den
  let rest := x.num % x.den
  if x.den < 2 * rest ∨ (2 * rest = x.den ∧ n % 2 = 1) then n + 1 else n

/-- `rne_p(x)`: `x` rounded to `p` significant bits, ties to even (R54). -/
def rne (p : Nat) (x : Ratio) : Ratio :=
  if x.num = 0 then ⟨0, 1⟩
  else
    let ulpExponent := x.exponent - p + 1
    Ratio.scale ⟨(x.scale (-ulpExponent)).roundTiesToEven, 1⟩ ulpExponent

/-- `rne53`, the binary64 value nearest `x` (R54). -/
def rne53 (x : Ratio) : Ratio := rne Config.binary64Precision x

/-- `rne24`, the binary32 value nearest `x` (R54). -/
def rne24 (x : Ratio) : Ratio := rne Config.binary32Precision x

/-- `u32_to_f64`: exact (R54). -/
def u32ToF64 (u : Word32) : Ratio := ⟨u.toNat, 1⟩

/-- The pattern of 0 or of a positive normal value of the format of precision `p` and the given bias:
`((e + bias) << (p - 1)) | frac`, sign bit 0 (R54). -/
def formatBits (p bias : Nat) (r : Ratio) : Nat :=
  if r.num = 0 then 0
  else
    let e := r.exponent
    let significand := r.scale (((p - 1 : Nat) : Int) - e)
    let frac := significand.num / significand.den - 2 ^ (p - 1)
    ((e + bias).toNat <<< (p - 1)) ||| frac

/-- `f32_bits` (R54). -/
def f32Bits (r : Ratio) : Word32 := BitVec.ofNat 32 (formatBits Config.binary32Precision Config.binary32Bias r)

/-- The binary64 pattern by the same format table (R54); no command returns one, the test vectors show it. -/
def f64Bits (r : Ratio) : Word64 := BitVec.ofNat 64 (formatBits Config.binary64Precision Config.binary64Bias r)

/-- The quotient `rne53(u / 4294967295)`, one correctly rounded binary64 division (R54, R55). -/
def quotient64 (u : Word32) : Ratio := rne53 ⟨(u32ToF64 u).num, (u32ToF64 u).den * Config.divisor⟩

/-- `unit32`: the quotient narrowed to binary32 (R55). -/
def unit32 (u : Word32) : Ratio := rne24 (quotient64 u)

/-- The assertion of NEXT_UNIFORM: `r` is finite and `r >= 0` and `r < 1` (R56). A `Ratio` has no sign and no infinity, so
finite is `den > 0` and non-negative is the type's. -/
def Ratio.inUnitInterval (r : Ratio) : Bool := 0 < r.den && r.num < r.den

end Sys2Proof.Machine
end

