-- ==== Sys2Proof/Machine/SliceFloat.lean ====
section
/-! DEFINITION. NEXT_UNIFORM (spec/43_slice_float.md R56). -/

namespace Sys2Proof.Machine

/-- The unit-interval output of a step result: the binary32 pattern, or UNIT_INTERVAL where the assertion fails. The step
stands either way. -/
def uniformSlice (v : Word48) (s : State) : State :=
  let r := unit32 (hi32 v)
  if r.inUnitInterval then respond (.ok (floatData (f32Bits r))) s else raiseFault .unitInterval s

/-- NEXT_UNIFORM: one step, then the bits NEXT_U32 would return, scaled into `[0, 1)`. -/
def execNextUniform (s : State) : Host.Outcome State Fault Refusal :=
  .next (stepCommand uniformSlice s)

end Sys2Proof.Machine
end

