-- ==== Sys2Proof/Machine/SliceInt.lean ====
section
/-! DEFINITION. NEXT_U32 and NEXT_I32 (spec/42_slice_int.md R51, R52). -/

namespace Sys2Proof.Machine

/-- NEXT_U32: one step, then bits 47:16 of the new state, unsigned. -/
def execNextU32 (s : State) : Host.Outcome State Fault Refusal :=
  .next (stepCommand (fun v => respond (.ok (unsignedData (hi32 v)))) s)

/-- NEXT_I32: one step, then the same 32 bits, two's complement. -/
def execNextI32 (s : State) : Host.Outcome State Fault Refusal :=
  .next (stepCommand (fun v => respond (.ok (signedData (hi32 v)))) s)

end Sys2Proof.Machine
end

