-- ==== Sys2Proof/Machine/Dispatch.lean ====
section
/-! DEFINITION. One arm per command: step 5 (and, for SEED, step 3) of the dispatch of spec/30_encoding.md R35. -/

namespace Sys2Proof.Machine

def exec (i : Instr) (s : State) : Host.Outcome State Fault Refusal :=
  match i with
  | .seed arg => Sys2Proof.Machine.execSeed arg s
  | .rawNext => Sys2Proof.Machine.execRawNext s
  | .nextU32 => Sys2Proof.Machine.execNextU32 s
  | .nextI32 => Sys2Proof.Machine.execNextI32 s
  | .nextUniform => Sys2Proof.Machine.execNextUniform s

end Sys2Proof.Machine
end

