-- ==== Sys2Proof/Machine/Port.lean ====
section
/-! DEFINITION. The command port: the execution of one 72-bit command (spec/30_encoding.md R35), and the host's next input
(spec/20_memory.md R21, R25). -/

namespace Sys2Proof.Machine

/-- `Execute(op, arg)` (R35). -/
def execute (c : Cmd) (s : State) : Host.Outcome State Fault Refusal :=
  match decode c with
  | .ok i => exec i s
  | .error _ => .next (illegalCommand s)

/-- The block takes the host's next input, or is idle (R21, R24, R70). -/
def acceptInput (s : State) : Host.Outcome State Fault Refusal :=
  match s.inputs with
  | [] => .next (idle s)
  | .command c :: rest => execute c { s with inputs := rest }
  | .reset :: rest => .next (assertReset { s with inputs := rest })
  | .resetDuring _ :: rest => .next (assertReset { s with inputs := rest })

/-- The host presents this command next, before whatever else it has to present. -/
def presentNext (c : Cmd) (s : State) : State := { s with inputs := .command c :: s.inputs }

end Sys2Proof.Machine
end

