-- ==== Sys2Proof/Machine/Step.lean ====
section
/-! DEFINITION. One step of the machine, and how a word of the opcode table is placed before it (notes/assumptions/2.md). -/

namespace Sys2Proof.Machine

/-- One step: the block takes one input of the host (a command, or reset) and completes it (spec/20_memory.md R24). -/
def step (s : State) : Host.Outcome State Fault Refusal := acceptInput s

/-- `s` with the command of the table word `w` at the port, so that the next step executes it. -/
def State.withFetchWord (s : State) (nbits w : Nat) : State := presentNext (commandOfTableWord nbits w) s

end Sys2Proof.Machine
end

