-- ==== Sys2Proof/Machine/Assembler.lean ====
section
/-! DEFINITION. The textual form of a command sequence (spec/30_encoding.md R37): one command a line, `;` to the end of the
line a comment. Text is a list of characters. The conventions R37 leaves open (blanks, before, between and after
the words; empty lines; digit case; where an underscore may stand) are the model's choices, notes/assumptions/8.md. -/

namespace Sys2Proof.Machine

/-- Why a line is no line of the assembler text. -/
inductive AsmError where
  /-- No mnemonic, or a mnemonic with the wrong number of operands. -/
  | unknownLine
  /-- An operand that is no literal. -/
  | badLiteral
  /-- A literal wider than its field. -/
  | literalTooWide
deriving DecidableEq, Repr

/-- The command word of a line, if its literal fits: the commands without an operand, and `.op`, have `arg = 0` (R37). -/
def assembleLine (l : AsmLine) : Except AsmError Cmd :=
  if l.wellFormed then
    .ok (match l with
      | .seed literal => encode (.seed (BitVec.ofNat 64 literal))
      | .rawNext => encode .rawNext
      | .nextU32 => encode .nextU32
      | .nextI32 => encode .nextI32
      | .nextUniform => encode .nextUniform
      | .op literal => packCommand (BitVec.ofNat 8 literal) 0)
  else .error .literalTooWide

/-- The value of a digit, hexadecimal in either case. -/
def digitValue (c : Char) : Option Nat :=
  if '0' ≤ c ∧ c ≤ '9' then some (c.toNat - 48)
  else if 'A' ≤ c ∧ c ≤ 'F' then some (c.toNat - 55)
  else if 'a' ≤ c ∧ c ≤ 'f' then some (c.toNat - 87)
  else none

/-- One more digit of a number in `base`. -/
def pushDigit (base : Nat) (acc : Option Nat) (c : Char) : Option Nat :=
  match acc, digitValue c with
  | some n, some d => if d < base then some (n * base + d) else none
  | _, _ => none

/-- A number of at least one digit; underscores are skipped (R37). -/
def parseNumber (base : Nat) (cs : List Char) : Option Nat :=
  match cs.filter (· ≠ '_') with
  | [] => none
  | digits => digits.foldl (pushDigit base) (some 0)

/-- A hexadecimal literal, `0x` first (R37). -/
def parseHex : List Char → Option Nat
  | '0' :: 'x' :: digits => parseNumber 16 digits
  | _ => none

/-- A seed literal: decimal, or hexadecimal with its prefix (R37). -/
def parseLiteral (cs : List Char) : Option Nat :=
  match cs with
  | '0' :: 'x' :: _ => parseHex cs
  | _ => parseNumber 10 cs

/-- The words of a line, its comment removed (R37). That blanks and tabs separate them, and may also stand before the first and
after the last, is a DESIGN CHOICE (notes/assumptions/8.md). -/
def wordsOf (line : List Char) : List (List Char) :=
  ((line.takeWhile (· ≠ ';')).splitOnP fun c => c = ' ' || c = '\t').filter (· ≠ [])

/-- A line of text: a command, or `none` for a line that holds only a comment (R37). That a line may also be empty or hold only
blanks, and is then `none`, is a DESIGN CHOICE (notes/assumptions/8.md). -/
def parseLine (line : List Char) : Except AsmError (Option AsmLine) :=
  match wordsOf line with
  | [] => .ok none
  | [w] =>
    if w = ['R', 'A', 'W', '_', 'N', 'E', 'X', 'T'] then .ok (some .rawNext)
    else if w = ['N', 'E', 'X', 'T', '_', 'U', '3', '2'] then .ok (some .nextU32)
    else if w = ['N', 'E', 'X', 'T', '_', 'I', '3', '2'] then .ok (some .nextI32)
    else if w = ['N', 'E', 'X', 'T', '_', 'U', 'N', 'I', 'F', 'O', 'R', 'M'] then .ok (some .nextUniform)
    else .error .unknownLine
  | [w, operand] =>
    if w = ['S', 'E', 'E', 'D'] then
      match parseLiteral operand with
      | some n => .ok (some (.seed n))
      | none => .error .badLiteral
    else if w = ['.', 'o', 'p'] then
      match parseHex operand with
      | some n => .ok (some (.op n))
      | none => .error .badLiteral
    else .error .unknownLine
  | _ => .error .unknownLine

/-- The commands of a text, line by line; the first bad line ends it. -/
def assembleLines : List (List Char) → Except AsmError (List Cmd)
  | [] => .ok []
  | line :: rest =>
    match parseLine line with
    | .error e => .error e
    | .ok none => assembleLines rest
    | .ok (some l) =>
      match assembleLine l, assembleLines rest with
      | .ok c, .ok cs => .ok (c :: cs)
      | .error e, _ => .error e
      | .ok _, .error e => .error e

/-- The command sequence of an assembler text (R9, R37). -/
def assemble (text : List Char) : Except AsmError (List Cmd) := assembleLines (text.splitOnP (· = '\n'))

end Sys2Proof.Machine
end

