-- ==== Sys2Proof/Safety.lean ====
section
/-! DEFINITION. The conditions a block can be in, and the invariants of its registers and its last response, in the terms
the claims use. -/

namespace Sys2Proof.Machine

/-- The condition in which the source's Generator exists: seeded and with no fault recorded (spec/90_conflicts.md C5). "No
fault recorded" is a premise of any claim about returned values (spec/60_exceptions.md R65). -/
def State.usable (s : State) : Bool := s.state.isSome && s.fault.isNone

/-- A step command, one of the four that perform exactly one step (spec/00_scope.md, section 6). -/
def isStepCommand : Instr → Bool
  | .seed _ => false
  | .rawNext | .nextU32 | .nextI32 | .nextUniform => true

/-- The host presents this instruction. -/
def present (i : Instr) : HostInput := .command (encode i)

/-- `n` steps of the machine. -/
def runSteps (n : Nat) (s : State) : Host.Outcome State Fault Refusal := Host.Core.run Sys2Proof.core n s

/-- What a recorded fault says of the registers (spec/60_exceptions.md R61, R63): NOT_SEEDED stands only in a block that is
still unseeded, UNIT_INTERVAL only beside the advanced state whose upper 32 bits caused it. -/
def State.faultExplained (s : State) : Bool :=
  match s.fault with
  | none => true
  | some .notSeeded => s.state.isNone
  | some .illegalCommand => true
  | some .unitInterval => s.state.any fun v => 0xFFFFFF7F ≤ (hi32 v).toNat

/-- The status of the last response is the code in `fault` (spec/30_encoding.md R36). -/
def State.responseAgrees (s : State) : Bool :=
  match s.response with
  | none => true
  | some r => r.statusField == s.faultO

/-- A delivered value is one of the four slices of the state the block now holds, a unit-interval one only below the fault
set; after Done the state is freshly seeded (spec/30_encoding.md R36, spec/40_seed.md R42). -/
def State.responseFromState (s : State) : Bool :=
  match s.response with
  | none => true
  | some (.fault _) => true
  | some .done => s.state.any fun v => v.extractLsb' 0 16 == 0x330E
  | some (.ok data) => s.state.any fun v =>
      data == rawData v || data == unsignedData (hi32 v) || data == signedData (hi32 v) ||
        (data == floatData (f32Bits (unit32 (hi32 v))) && (hi32 v).toNat < 0xFFFFFF7F)

/-- The invariant that every step keeps. -/
def State.consistent (s : State) : Bool := s.faultExplained && s.responseAgrees && s.responseFromState

end Sys2Proof.Machine
end

