-- ==== Sys2Proof/Certificates/Slice0/Obligations.lean ====
section
/-! DEFINITION. The statements for the provers, in the order of the rules of spec/. Nothing here is proved. -/

open Sys2Proof Sys2Proof.Machine

/-! ### The command and response formats -/

/-- R30: `cmd = op || arg`, and nothing of a command is lost or added. -/
def Obligations.CommandIsOpcodeThenOperand : Prop :=
  (∀ (op : Opcode) (arg : Word64), opField (packCommand op arg) = op ∧ argField (packCommand op arg) = arg ∧
    (packCommand op arg).toNat = op.toNat * 2 ^ 64 + arg.toNat) ∧
  ∀ c : Cmd, packCommand (opField c) (argField c) = c

/-- R33: the decoder reads a row exactly where `cmd & mask = match`, and SEED's operand is `arg`. -/
def Obligations.DecoderFollowsMatchAndMask : Prop :=
  ∀ c : Cmd,
    ((∃ a, decode c = .ok (.seed a)) ↔ c &&& 0xFF0000000000000000 = 0x010000000000000000) ∧
    (∀ a, decode c = .ok (.seed a) → a = c.setWidth 64) ∧
    (decode c = .ok .rawNext ↔ c &&& 0xFF0000000000000000 = 0x020000000000000000) ∧
    (decode c = .ok .nextU32 ↔ c &&& 0xFF0000000000000000 = 0x030000000000000000) ∧
    (decode c = .ok .nextI32 ↔ c &&& 0xFF0000000000000000 = 0x040000000000000000) ∧
    (decode c = .ok .nextUniform ↔ c &&& 0xFF0000000000000000 = 0x050000000000000000)

/-- R30, R33: decoding inverts encoding, and a word decodes to an instruction exactly when it has that instruction's opcode
and, for SEED, its operand. -/
def Obligations.DecodeInvertsEncode : Prop :=
  ∀ i : Instr, decode (encode i) = .ok i ∧
    ∀ c : Cmd, decode c = .ok i ↔ (opField c = opField (encode i) ∧ ∀ a, i = .seed a → argField c = a)

/-- V15: the command words written out from the format decode to the commands they stand for. -/
def Obligations.WrittenWordsDecode : Prop :=
  decode 0x010000000000000000 = .ok (.seed 0) ∧ decode 0x01000000000000002A = .ok (.seed 42) ∧
  decode 0x01DEADBEEFCAFEBABE = .ok (.seed 0xDEADBEEFCAFEBABE) ∧
  decode 0x020000000000000000 = .ok .rawNext ∧ decode 0x02FFFFFFFFFFFFFFFF = .ok .rawNext ∧
  decode 0x030000000000000000 = .ok .nextU32 ∧ decode 0x040000000000000000 = .ok .nextI32 ∧
  decode 0x050000000000000000 = .ok .nextUniform ∧
  decode 0x000000000000000000 = .error (.illegalCommand 0x00) ∧
  decode 0x060000000000000000 = .error (.illegalCommand 0x06) ∧
  decode 0xFF0000000000000000 = .error (.illegalCommand 0xFF)

/-- R34: the illegal opcodes are 0x00 and 0x06 to 0xFF, 251 values; presented to a block without a fault, one raises
ILLEGAL_COMMAND and changes nothing else. -/
def Obligations.IllegalOpcodesRaise : Prop :=
  (∀ c : Cmd, (∃ e, decode c = .error e) ↔ ((opField c).toNat = 0 ∨ 6 ≤ (opField c).toNat)) ∧
  ((List.range 256).filter fun n => !legalOpcode (BitVec.ofNat 8 n)).length = 251 ∧
  (∀ op : Opcode, legalOpcode op = false ↔ (op.toNat = 0 ∨ 6 ≤ op.toNat)) ∧
  ∀ (c : Cmd) (s : State), (opField c).toNat = 0 ∨ 6 ≤ (opField c).toNat → s.fault = none →
    execute c s = .next { s with fault := some .illegalCommand, response := some (.fault .illegalCommand) }

/-- R32: `arg` is SEED's operand, of which only the low 32 bits have an effect; for every other opcode no bit of it has. -/
def Obligations.OperandIsOnlySeedsLowHalf : Prop :=
  (∀ arg : Word64, decode (packCommand 0x01 arg) = .ok (.seed arg)) ∧
  (∀ (arg arg' : Word64) (s : State), arg.toNat % 2 ^ 32 = arg'.toNat % 2 ^ 32 →
    execute (packCommand 0x01 arg) s = execute (packCommand 0x01 arg') s) ∧
  ∀ (op : Opcode) (arg arg' : Word64) (s : State), op ≠ 0x01 →
    execute (packCommand op arg) s = execute (packCommand op arg') s

/-- R35: the order of the checks. -/
def Obligations.DispatchChecksInOrder : Prop :=
  ∀ (c : Cmd) (s : State), execute c s =
    match s.fault with
    | some held => .next { s with response := some (.fault held) }
    | none =>
      if opField c ∉ [0x01, 0x02, 0x03, 0x04, 0x05] then
        .next { s with fault := some .illegalCommand, response := some (.fault .illegalCommand) }
      else if opField c = 0x01 then exec (.seed (argField c)) s
      else if s.seededO = 0 then
        .next { s with fault := some .notSeeded, response := some (.fault .notSeeded) }
      else if opField c = 0x02 then exec .rawNext s
      else if opField c = 0x03 then exec .nextU32 s
      else if opField c = 0x04 then exec .nextI32 s
      else exec .nextUniform s

/-- R36: the wire image of each shape of response, and where each result stands in `data`. -/
def Obligations.ResponseWireImage : Prop :=
  Response.done.wire.toNat = 0 ∧
  (∀ d : Word64, (Response.ok d).wire.toNat = d.toNat) ∧
  (∀ c : Cause, (Response.fault c).wire.toNat = (faultCode (some c)).toNat * 2 ^ 64) ∧
  (∀ r : Response, (r.wire.toNat < 2 ^ 64 ↔ ∀ c, r ≠ .fault c) ∧ (r.value.isSome ↔ ∃ d, r = .ok d)) ∧
  (∀ v : Word48, (rawData v).toNat = v.toNat) ∧
  (∀ u : Word32, (unsignedData u).toNat = u.toNat ∧ (floatData u).toNat = u.toNat ∧
    (signedData u).toInt = u.toInt ∧ (signedData u).extractLsb' 0 32 = u)

/-- R37: each form of line of the assembler text, once read (an `AsmLine`; that the text reads so is
AssemblerTextReadsAsItsLines), assembles to its command, with `arg = 0` where there is no operand. The two `literalTooWide`
clauses are the model's reading of "a 64-bit unsigned literal", not R37's own words (notes/assumptions/8.md, DEDUCED). -/
def Obligations.AssembledLinesAreTheirCommands : Prop :=
  (∀ n, n < 2 ^ 64 → ∃ c, assembleLine (.seed n) = .ok c ∧ decode c = .ok (.seed (BitVec.ofNat 64 n))) ∧
  (∀ n, 2 ^ 64 ≤ n → assembleLine (.seed n) = .error .literalTooWide) ∧
  assembleLine .rawNext = .ok 0x020000000000000000 ∧ assembleLine .nextU32 = .ok 0x030000000000000000 ∧
  assembleLine .nextI32 = .ok 0x040000000000000000 ∧ assembleLine .nextUniform = .ok 0x050000000000000000 ∧
  (∀ n, n < 256 → ∃ c, assembleLine (.op n) = .ok c ∧ (opField c).toNat = n ∧ argField c = 0) ∧
  (∀ n, 256 ≤ n → assembleLine (.op n) = .error .literalTooWide)

/-! ### One step of the machine -/

/-- R24, R25: a step executes the command at the head of the host's inputs and moves past it. -/
def Obligations.StepExecutesThePresentedCommand : Prop :=
  (∀ (s : State) (c : Cmd) (i : Instr) (rest : List HostInput), s.inputs = .command c :: rest → decode c = .ok i →
    step s = exec i { s with inputs := rest }) ∧
  (∀ (s : State) (c : Cmd) (e : DecodeError) (rest : List HostInput), s.inputs = .command c :: rest →
    decode c = .error e → step s = .next (illegalCommand { s with inputs := rest })) ∧
  ∀ (s : State) (i : Instr), step (s.withFetchWord 72 (encode i).toNat) = exec i s

/-- R21, R36: a step that executes a command gives exactly one response, whose status is the code then in `fault`; a step
that executes none gives no response. -/
def Obligations.OneResponsePerCommand : Prop :=
  (∀ (s : State) (c : Cmd) (rest : List HostInput), s.inputs = .command c :: rest →
    ∃ t r, step s = .next t ∧ t.inputs = rest ∧ t.response = some r ∧ r.statusField = t.faultO) ∧
  (∀ s : State, (∀ c rest, s.inputs ≠ .command c :: rest) → ∃ t, step s = .next t ∧ t.response = none ∧
    t.inputs = s.inputs.tail)

/-- R17: the reset values of the registers and of the status outputs; `state` holds no value. -/
def Obligations.ResetValuesOfTheRegisters : Prop :=
  State.reset.state = none ∧ State.reset.fault = none ∧ State.reset.seededO = 0 ∧ State.reset.faultO = 0

/-- R70: reset from any state, between commands or during one, leaves what `State.reset` holds: unseeded, no fault, and no
response (the model's field, notes/assumptions/3.md); the host's further inputs stay (notes/assumptions/5.md). -/
def Obligations.ResetErasesEverything : Prop :=
  ∀ (s : State) (c : Cmd) (rest : List HostInput),
    s.inputs = .reset :: rest ∨ s.inputs = .resetDuring c :: rest →
    step s = .next { State.reset with inputs := rest }

/-- R68: a block with no command presented is idle; its registers keep their values (that an idle step is a step, and gives
no response, is the model's, notes/assumptions/4.md). -/
def Obligations.IdleKeepsTheRegisters : Prop :=
  ∀ s : State, s.inputs = [] → step s = .next { s with response := none }

/-- R13, R15: the codes of the `fault` register and the status vector. -/
def Obligations.StatusOutputsFollowTheRegisters : Prop :=
  (∀ s : State, s.status.toNat = s.faultO.toNat * 2 + s.seededO.toNat) ∧
  (∀ s : State, s.seededO = 1 ↔ ∃ v, s.state = some v) ∧
  (∀ s : State, (s.faultO = 0 ↔ s.fault = none) ∧ (s.faultO = 1 ↔ s.fault = some .notSeeded) ∧
    (s.faultO = 2 ↔ s.fault = some .illegalCommand) ∧ (s.faultO = 3 ↔ s.fault = some .unitInterval))

/-! ### The commands: each completes, and with what -/

/-- R40, R41, R43: SEED on a block without a fault, seeded or not. -/
def Obligations.SeedConstructsTheGenerator : Prop :=
  ∀ (arg : Word64) (s : State), s.fault = none →
    ∃ w : Word48, w.toNat = arg.toNat % 2 ^ 32 * 65536 + 13070 ∧
      exec (.seed arg) s = .next { s with state := some w, response := some .done }

/-- R45, R47: RAW_NEXT on a usable block. -/
def Obligations.RawNextReturnsTheNewState : Prop :=
  ∀ (s : State) (v : Word48), s.fault = none → s.state = some v →
    ∃ (w : Word48) (d : Word64), w.toNat = (25214903917 * v.toNat + 11) % 2 ^ 48 ∧ d.toNat = w.toNat ∧
      exec .rawNext s = .next { s with state := some w, response := some (.ok d) }

/-- R50, R51: NEXT_U32 on a usable block. -/
def Obligations.NextU32ReturnsTheUpperBits : Prop :=
  ∀ (s : State) (v : Word48), s.fault = none → s.state = some v →
    ∃ (w : Word48) (d : Word64), w.toNat = (25214903917 * v.toNat + 11) % 2 ^ 48 ∧ d.toNat = w.toNat / 65536 ∧
      exec .nextU32 s = .next { s with state := some w, response := some (.ok d) }

/-- R50, R52: NEXT_I32 on a usable block. -/
def Obligations.NextI32ReturnsTheSignedUpperBits : Prop :=
  ∀ (s : State) (v : Word48), s.fault = none → s.state = some v →
    ∃ (w : Word48) (d : Word64), w.toNat = (25214903917 * v.toNat + 11) % 2 ^ 48 ∧
      d.toInt = (if w.toNat / 65536 < 2 ^ 31 then (w.toNat / 65536 : Int) else (w.toNat / 65536 : Int) - 2 ^ 32) ∧
      exec .nextI32 s = .next { s with state := some w, response := some (.ok d) }

/-- R56: NEXT_UNIFORM on a usable block, by its own assertion: the value is returned if it is in `[0, 1)`, and otherwise
UNIT_INTERVAL is raised with the step kept. -/
def Obligations.NextUniformReturnsOrFaults : Prop :=
  ∀ (s : State) (v : Word48), s.fault = none → s.state = some v →
    ∃ w : Word48, w.toNat = (25214903917 * v.toNat + 11) % 2 ^ 48 ∧
      exec .nextUniform s =
        if 0 < (unit32 (hi32 w)).den ∧ (unit32 (hi32 w)).num < (unit32 (hi32 w)).den then
          .next { s with state := some w, response := some (.ok ((f32Bits (unit32 (hi32 w))).setWidth 64)) }
        else
          .next { s with state := some w, fault := some .unitInterval, response := some (.fault .unitInterval) }

/-- R56, R57, R58: NEXT_UNIFORM completes, with a pattern of at most `0x3F7FFFFF`, wherever the new upper bits are at most
`0xFFFFFF7E`. -/
def Obligations.NextUniformReturnsBelowTheFaultSet : Prop :=
  ∀ (s : State) (v : Word48), s.fault = none → s.state = some v →
    (25214903917 * v.toNat + 11) % 2 ^ 48 / 65536 ≤ 0xFFFFFF7E →
    ∃ (w : Word48) (d : Word64), w.toNat = (25214903917 * v.toNat + 11) % 2 ^ 48 ∧
      d.toNat = (f32Bits (unit32 (hi32 w))).toNat ∧ d.toNat ≤ 0x3F7FFFFF ∧
      exec .nextUniform s = .next { s with state := some w, response := some (.ok d) }

/-- R56, R57: NEXT_UNIFORM raises UNIT_INTERVAL, its step kept, wherever the new upper bits are at least `0xFFFFFF7F`. -/
def Obligations.NextUniformFaultsOnTheFaultSet : Prop :=
  ∀ (s : State) (v : Word48), s.fault = none → s.state = some v →
    0xFFFFFF7F ≤ (25214903917 * v.toNat + 11) % 2 ^ 48 / 65536 →
    ∃ w : Word48, w.toNat = (25214903917 * v.toNat + 11) % 2 ^ 48 ∧
      exec .nextUniform s =
        .next { s with state := some w, fault := some .unitInterval, response := some (.fault .unitInterval) }

/-- R35, R61: a step command on an unseeded block raises NOT_SEEDED and performs no step. -/
def Obligations.UnseededStepRaisesNotSeeded : Prop :=
  ∀ (i : Instr) (s : State), (∀ a, i ≠ .seed a) → s.fault = none → s.state = none →
    exec i s = .next { s with fault := some .notSeeded, response := some (.fault .notSeeded) }

/-- R65: a faulted block refuses every command, SEED and illegal opcodes included, with the code already held; reset is a way
out, to the unseeded condition. -/
def Obligations.FaultedBlockRefusesEveryCommand : Prop :=
  ∀ (s : State) (held : Cause), s.fault = some held →
    (∀ c : Cmd, execute c s = .next { s with response := some (.fault held) }) ∧
    (∀ i : Instr, exec i s = .next { s with response := some (.fault held) }) ∧
    ∀ rest, s.inputs = .reset :: rest → ∃ t, step s = .next t ∧ t.fault = none ∧ t.state = none

/-- R53: from one usable state `v`, the four step commands all leave `muladd48(v)` and return slices of it. -/
def Obligations.ExtractionIsConsistent : Prop :=
  ∀ (s : State) (v : Word48), s.fault = none → s.state = some v →
    ∃ (r u j : Word64) (tr tu tj tf : State),
      exec .rawNext s = .next tr ∧ exec .nextU32 s = .next tu ∧ exec .nextI32 s = .next tj ∧
      exec .nextUniform s = .next tf ∧
      tr.response = some (.ok r) ∧ tu.response = some (.ok u) ∧ tj.response = some (.ok j) ∧
      tr.state = some (muladd48 v) ∧ r.toNat = (muladd48 v).toNat ∧ tu.state = tr.state ∧ tj.state = tr.state ∧ tf.state = tr.state ∧
      u = (r >>> 16) &&& 0xFFFFFFFF ∧ j.toInt = (u.toNat : Int) - 2 ^ 32 * ((u.toNat / 2 ^ 31 % 2 : Nat) : Int) ∧
      (tf.response = some (.fault .unitInterval) ∨
        tf.response = some (.ok ((f32Bits (unit32 (u.setWidth 32))).setWidth 64)))

/-- Frame of the five commands: the host's inputs never change; SEED never writes `fault`; RAW_NEXT, NEXT_U32 and NEXT_I32
write it only to raise NOT_SEEDED, NEXT_UNIFORM also to raise UNIT_INTERVAL; a fault already held stays, and `state` with it. -/
def Obligations.CommandsLeaveTheRestUnchanged : Prop :=
  ∀ (i : Instr) (s t : State), exec i s = .next t →
    t.inputs = s.inputs ∧
    (s.fault ≠ none → t.fault = s.fault ∧ t.state = s.state) ∧
    (∀ a, i = .seed a → t.fault = s.fault) ∧
    (i = .rawNext ∨ i = .nextU32 ∨ i = .nextI32 → t.fault ≠ s.fault →
      s.state = none ∧ t.state = none ∧ t.fault = some .notSeeded) ∧
    (i = .nextUniform → t.fault ≠ s.fault →
      (s.state = none ∧ t.state = none ∧ t.fault = some .notSeeded) ∨
      (s.state ≠ none ∧ t.state ≠ none ∧ t.fault = some .unitInterval))

/-- R11: only SEED and a step write `state`, the one `scramble(arg)`, the other `muladd48(state)`. -/
def Obligations.StateHasTwoWriters : Prop :=
  ∀ (c : Cmd) (s : State), ∃ t, execute c s = .next t ∧
    (t.state = s.state ∨
      (∃ a, decode c = .ok (.seed a) ∧ s.fault = none ∧ t.state = some (scramble a)) ∨
      ∃ v i, decode c = .ok i ∧ isStepCommand i = true ∧ s.fault = none ∧ s.state = some v ∧
        t.state = some (muladd48 v))

/-! ### The seed scrambler -/

/-- R40: the forms of `scramble`, and its range. -/
def Obligations.ScrambleForms : Prop :=
  ∀ seed : Word64,
    (scramble seed).toNat = ((seed.toNat &&& 0xFFFFFFFF) <<< 16) ||| 0x330E ∧
    (scramble seed).toNat = seed.toNat % 2 ^ 32 * 65536 + 13070 ∧
    (scramble seed).extractLsb' 16 32 = seed.extractLsb' 0 32 ∧ (scramble seed).extractLsb' 0 16 = 0x330E ∧
    (scramble seed).toNat ≤ 0xFFFFFFFF330E

/-- R42, items 1 and 2: two seeds give one state exactly when their low 32 bits agree. -/
def Obligations.ScrambleSeparatesLowHalves : Prop :=
  ∀ seed seed' : Word64, scramble seed = scramble seed' ↔ seed.toNat % 2 ^ 32 = seed'.toNat % 2 ^ 32

/-- R42, item 3: the low 16 bits of the first five step results are the same for every seed. -/
def Obligations.LowBitsSameForEverySeed : Prop :=
  ∀ seed : Word64,
    (muladd48 (scramble seed)).extractLsb' 0 16 = 0x5101 ∧
    ((muladd48^[2]) (scramble seed)).extractLsb' 0 16 = 0x6378 ∧
    ((muladd48^[3]) (scramble seed)).extractLsb' 0 16 = 0x2A23 ∧
    ((muladd48^[4]) (scramble seed)).extractLsb' 0 16 = 0x62F2 ∧
    ((muladd48^[5]) (scramble seed)).extractLsb' 0 16 = 0x8D15

/-! ### The 48-bit modular arithmetic engine -/

/-- R46, items 1 and 5: the width of the exact value, and the special values of the map. -/
def Obligations.EngineSpecialValues : Prop :=
  (∀ s : Word48, Config.multiplier * s.toNat + Config.increment ≤ 0x5DEECE66CFFFA2113199E) ∧
  2 ^ 82 ≤ 0x5DEECE66CFFFA2113199E ∧ 0x5DEECE66CFFFA2113199E < 2 ^ 83 ∧
  muladd48 0 = 0xB ∧ muladd48 1 = 0x0005DEECE678 ∧ muladd48 0xFFFFFFFFFFFF = 0xFFFA2113199E ∧
  muladd48 0x800000000000 = 0x80000000000B ∧ muladd48 0x615C0E462AA9 = 0 ∧
  muladd48 0x817BB27B1744 = 0xFFFFFFFFFFFF

/-- R46, item 2: an engine of any intermediate width of at least 48 bits, and the wrapping 64-bit one, give the same
result. -/
def Obligations.EngineImplementationsAgree : Prop :=
  (∀ (s : Word48) (W : Nat), 48 ≤ W →
    (muladd48 s).toNat = (0x5DEECE66D * s.toNat % 2 ^ W + 0xB) % 2 ^ 48) ∧
  ∀ s : Word48, muladd48 s = ((0x5DEECE66D#64 * s.setWidth 64 + 0xB#64) &&& 0xFFFFFFFFFFFF#64).setWidth 48

/-- R46, item 3: only low bits feed low bits. -/
def Obligations.LowBitsFeedLowBits : Prop :=
  ∀ (s : Word48) (k : Nat), 1 ≤ k → k ≤ 48 →
    (muladd48 s).toNat % 2 ^ k = (0x5DEECE66D * (s.toNat % 2 ^ k) + 0xB) % 2 ^ k

/-- R48, item 1: the inverse step, on both sides. -/
def Obligations.StepIsABijection : Prop :=
  0x5DEECE66D * 0xDFE05BCB1365 % 2 ^ 48 = 1 ∧
  (∀ s : Word48, 0xDFE05BCB1365#48 * (muladd48 s - 0xB#48) = s) ∧
  (∀ s : Word48, muladd48 (0xDFE05BCB1365#48 * (s - 0xB#48)) = s) ∧
  ∀ s' : Word48, ∃! s : Word48, muladd48 s = s'

/-- R48, item 2: the map has no fixed point, so two consecutive RAW_NEXT results differ. -/
def Obligations.ConsecutiveRawResultsDiffer : Prop :=
  (∀ s : Word48, muladd48 s ≠ s) ∧
  ∀ (s : State), s.fault = none → s.state ≠ none →
    ∃ (t t' : State) (d d' : Word64), exec .rawNext s = .next t ∧ exec .rawNext t = .next t' ∧
      t.response = some (.ok d) ∧ t'.response = some (.ok d') ∧ d ≠ d'

/-- R48, item 3 (which the spec takes from general knowledge): one cycle through all `2^48` states. -/
def Obligations.StatesFormOneCycle : Prop :=
  (∀ s : Word48, (muladd48^[2 ^ 48]) s = s) ∧
  (∀ (s : Word48) (n : Nat), 0 < n → n < 2 ^ 48 → (muladd48^[n]) s ≠ s) ∧
  ∀ s s' : Word48, ∃ n, n < 2 ^ 48 ∧ (muladd48^[n]) s = s'

/-! ### The output slicer -/

/-- R50: the forms of `hi32`; mask-then-shift and shift-then-mask agree on every 64-bit value. -/
def Obligations.SliceForms : Prop :=
  (∀ s : Word64, (s &&& (0xFFFFFFFF <<< 16)) >>> 16 = (s >>> 16) &&& 0xFFFFFFFF) ∧
  ∀ s : Word48,
    (hi32 s).toNat = (s.toNat &&& (0xFFFFFFFF <<< 16)) >>> 16 ∧
    (hi32 s).toNat = (s.toNat >>> 16) &&& 0xFFFFFFFF ∧
    (hi32 s).toNat = s.toNat / 65536 ∧ hi32 s = BitVec.extractLsb 47 16 s

/-- R54: `exponent` is the `e` with `2^e <= x < 2^(e+1)`. -/
def Obligations.ExponentBracketsTheValue : Prop :=
  ∀ x : Ratio, 0 < x.num → 0 < x.den →
    (x.scale (-x.exponent)).den ≤ (x.scale (-x.exponent)).num ∧
    (x.scale (-x.exponent)).num < 2 * (x.scale (-x.exponent)).den

/-- R54: `rne_p` gives `n` units in the last place with `2^(p-1) <= n <= 2^p`, off by at most half a unit, and even where it
is off by exactly half. -/
def Obligations.RoundingIsToNearestTiesToEven : Prop :=
  ∀ (p : Nat) (x : Ratio), 1 ≤ p → 0 < x.num → 0 < x.den →
    ∃ n : Nat, rne p x = Ratio.scale ⟨n, 1⟩ (x.exponent - p + 1) ∧ 2 ^ (p - 1) ≤ n ∧ n ≤ 2 ^ p ∧
      (let y := x.scale (-(x.exponent - p + 1))
       2 * y.num ≤ (2 * n + 1) * y.den ∧ 2 * n * y.den ≤ 2 * y.num + y.den ∧
        (2 * y.num = (2 * n + 1) * y.den ∨ 2 * n * y.den = 2 * y.num + y.den → n % 2 = 0))

/-- R57: the exact fault set, the value 1.0 on it, and the range of the patterns below it. -/
def Obligations.FaultSetIsExact : Prop :=
  ∀ u : Word32,
    ((unit32 u).inUnitInterval = false ↔ 0xFFFFFF7F ≤ u.toNat) ∧
    (0xFFFFFF7F ≤ u.toNat → (unit32 u).num = (unit32 u).den ∧ f32Bits (unit32 u) = 0x3F800000) ∧
    (u.toNat ≤ 0xFFFFFF7E → (f32Bits (unit32 u)).toNat ≤ 0x3F7FFFFF ∧
      (unit32 u).num * 2 ^ 24 ≤ (2 ^ 24 - 1) * (unit32 u).den)

/-- R54: the pattern of `unit32(u)` denotes it: sign 0, exponent field `E`, fraction `f`, value `(2^23 + f) * 2^(E - 150)`. -/
def Obligations.PatternDenotesTheValue : Prop :=
  f32Bits (unit32 0) = 0 ∧
  ∀ u : Word32, u ≠ 0 →
    (unit32 u).num * 2 ^ 150 = (2 ^ 23 + (f32Bits (unit32 u)).toNat % 2 ^ 23) *
      2 ^ ((f32Bits (unit32 u)).toNat / 2 ^ 23) * (unit32 u).den ∧
    95 ≤ (f32Bits (unit32 u)).toNat / 2 ^ 23 ∧ (f32Bits (unit32 u)).toNat / 2 ^ 23 ≤ 127

/-- R58, item 4: `unit32` is monotone, and maps the whole range `0x7FFFFFC0` to `0x8000007F` to 0.5. -/
def Obligations.UniformIsMonotone : Prop :=
  (∀ u u' : Word32, u.toNat ≤ u'.toNat → (unit32 u).num * (unit32 u').den ≤ (unit32 u').num * (unit32 u).den) ∧
  ∀ u : Word32, 0x7FFFFFC0 ≤ u.toNat → u.toNat ≤ 0x8000007F → f32Bits (unit32 u) = 0x3F000000

/-- R57: every 32-bit value is the first slice of exactly one 32-bit seed, given by the inverse step. -/
def Obligations.EveryFirstOutputIsReachable : Prop :=
  ∀ u : Word32,
    (∃! k : Word32, hi32 (muladd48 (scramble (k.setWidth 64))) = u) ∧
    hi32 (muladd48 (scramble ((hi32 (0xDFE05BCB1365#48 * ((u ++ 0x5101#16) - 0xB#48))).setWidth 64))) = u

/-! ### Sequences of commands -/

/-- R25, R49: after SEED and `n + 1` step commands whatever their mix, if no fault is recorded, the state is `muladd48`
applied `n + 1` times to the scrambled seed, and the last response is the slice of it that the last opcode selects. -/
def Obligations.StreamPositionCountsTheSteps : Prop :=
  ∀ (seed : Word64) (is : List Instr) (i : Instr) (s : State) (rest : List HostInput),
    (∀ j ∈ is ++ [i], isStepCommand j = true) → s.fault = none →
    s.inputs = present (.seed seed) :: ((is ++ [i]).map present ++ rest) →
    ∃ t, runSteps (is.length + 2) s = .next t ∧ t.inputs = rest ∧
      (t.fault = none →
        t.state = some ((muladd48^[is.length + 1]) (scramble seed)) ∧
        (i = .rawNext → t.response = some (.ok (rawData ((muladd48^[is.length + 1]) (scramble seed))))) ∧
        (i = .nextU32 → t.response = some (.ok (unsignedData (hi32 ((muladd48^[is.length + 1]) (scramble seed)))))) ∧
        (i = .nextI32 → t.response = some (.ok (signedData (hi32 ((muladd48^[is.length + 1]) (scramble seed)))))) ∧
        (i = .nextUniform → t.response =
          some (.ok (floatData (f32Bits (unit32 (hi32 ((muladd48^[is.length + 1]) (scramble seed)))))))))

/-- R43, R49, R67: nothing that a block without a fault held before a SEED shows after it: two such blocks given the same
inputs, SEED first, are equal ever after. -/
def Obligations.SeedErasesHistory : Prop :=
  ∀ (s s' : State) (seed : Word64) (rest : List HostInput) (n : Nat),
    s.fault = none → s'.fault = none → s.inputs = present (.seed seed) :: rest → s'.inputs = s.inputs →
    runSteps (n + 1) s = runSteps (n + 1) s'

/-- R65, R13: a fault is sticky: through any sequence of commands, legal or not, the registers keep their values and every
response reports the code first latched. -/
def Obligations.FaultIsStickyUntilReset : Prop :=
  ∀ (cs : List Cmd) (s : State) (held : Cause) (rest : List HostInput), s.fault = some held →
    s.inputs = cs.map HostInput.command ++ rest →
    runSteps cs.length s =
      .next { s with inputs := rest, response := if cs = [] then s.response else some (.fault held) }

/-- R71: a host that issues no NEXT_UNIFORM can go on from a usable block without end: no command faults. -/
def Obligations.IntegerHostNeverFaults : Prop :=
  ∀ (is : List Instr) (s : State) (rest : List HostInput), s.usable = true → (∀ i ∈ is, i ≠ .nextUniform) →
    s.inputs = is.map present ++ rest →
    ∃ t, runSteps is.length s = .next t ∧ t.usable = true ∧ t.inputs = rest ∧
      (is ≠ [] → ∃ r, t.response = some r ∧ ∀ c, r ≠ .fault c)

/-- R24, R74: no step ever stops the machine, and `n` steps take exactly `n` of the host's inputs. -/
def Obligations.NoStepStopsTheMachine : Prop :=
  ∀ (n : Nat) (s : State), ∃ t, runSteps n s = .next t ∧ t.inputs = s.inputs.drop n

/-- R12, R13: only SEED seeds, only reset unseeds, a recorded fault changes only by reset, and one is recorded only by a
command. -/
def Obligations.OnlyResetUndoesSeedAndFault : Prop :=
  ∀ s t : State, step s = .next t →
    (s.state ≠ none → t.state = none →
      ∃ rest c, s.inputs = .reset :: rest ∨ s.inputs = .resetDuring c :: rest) ∧
    (s.state = none → t.state ≠ none →
      ∃ rest c a, s.inputs = .command c :: rest ∧ decode c = .ok (.seed a) ∧ s.fault = none) ∧
    (s.fault ≠ none → t.fault ≠ s.fault →
      t.fault = none ∧ ∃ rest c, s.inputs = .reset :: rest ∨ s.inputs = .resetDuring c :: rest) ∧
    (s.fault = none → t.fault ≠ none → ∃ rest c, s.inputs = .command c :: rest ∧ t.response = t.fault.map .fault)

/-! ### The invariant -/

/-- Every step keeps the invariant: a recorded fault is explained by the registers, the status of the response is the code in
`fault`, and a delivered value is a slice of the state. -/
def Obligations.EveryStepKeepsConsistency : Prop :=
  ∀ s t : State, s.consistent = true → step s = .next t → t.consistent = true

/-- The invariant holds at reset. -/
def Obligations.ResetIsConsistent : Prop := State.reset.consistent = true

/-! ### The assembler text -/

/-- `digits` is a decimal numeral of `n`: underscores apart, its digits after any leading zeros. -/
def Sys2Proof.Machine.decimalNumeral (digits : List Char) (n : Nat) : Prop :=
  ∃ zeros, digits.filter (· ≠ '_') = List.replicate zeros '0' ++ Nat.toDigits 10 n

/-- `digits` is a hexadecimal numeral of `n`: underscores apart, its digits after any leading zeros, each in either case. -/
def Sys2Proof.Machine.hexNumeral (digits : List Char) (n : Nat) : Prop :=
  ∃ zeros, List.Forall₂ (fun c digit => c = digit ∨ c = digit.toUpper) (digits.filter (· ≠ '_'))
    (List.replicate zeros '0' ++ Nat.toDigits 16 n)

/-- R37: the text of each form of line reads as that line, and no other line is a command. The bare mnemonics; a seed literal
in decimal or in hexadecimal with the `0x` prefix; `.op`, the one directive, with a hexadecimal literal; from a semicolon to the
end of the line a comment; and, in the last clause, a line reads as a command exactly when its words are that command's mnemonic,
in upper case, and a numeral of its number. R37 leaves open, and notes/assumptions/8.md chooses, where an underscore may stand,
the case of a hexadecimal digit (the spec's own texts write upper case), leading zeros, the number of digits of a `.op` literal
(R37 writes `0xNN`), and blanks before, between and after the words. -/
def Obligations.AssemblerTextReadsAsItsLines : Prop :=
  parseLine ['R', 'A', 'W', '_', 'N', 'E', 'X', 'T'] = .ok (some .rawNext) ∧
  parseLine ['N', 'E', 'X', 'T', '_', 'U', '3', '2'] = .ok (some .nextU32) ∧
  parseLine ['N', 'E', 'X', 'T', '_', 'I', '3', '2'] = .ok (some .nextI32) ∧
  parseLine ['N', 'E', 'X', 'T', '_', 'U', 'N', 'I', 'F', 'O', 'R', 'M'] = .ok (some .nextUniform) ∧
  (∀ (n : Nat) (digits : List Char), decimalNumeral digits n →
    parseLine (['S', 'E', 'E', 'D', ' '] ++ digits) = .ok (some (.seed n))) ∧
  (∀ (n : Nat) (digits : List Char), hexNumeral digits n →
    parseLine (['S', 'E', 'E', 'D', ' ', '0', 'x'] ++ digits) = .ok (some (.seed n)) ∧
    parseLine (['.', 'o', 'p', ' ', '0', 'x'] ++ digits) = .ok (some (.op n))) ∧
  (∀ line comment : List Char, parseLine (line ++ ';' :: comment) = parseLine line) ∧
  (∀ comment : List Char, parseLine (';' :: comment) = .ok none) ∧
  (∀ w operand : List Char, w ≠ [] → operand ≠ [] → (∀ c ∈ w ++ operand, c ≠ ' ' ∧ c ≠ '\t' ∧ c ≠ ';') →
    wordsOf w = [w] ∧ wordsOf (w ++ ' ' :: operand) = [w, operand]) ∧
  ∀ (line : List Char) (l : AsmLine), parseLine line = .ok (some l) ↔
    match l with
    | .seed n => ∃ operand, wordsOf line = [['S', 'E', 'E', 'D'], operand] ∧
        (decimalNumeral operand n ∨ ∃ digits, operand = '0' :: 'x' :: digits ∧ hexNumeral digits n)
    | .rawNext => wordsOf line = [['R', 'A', 'W', '_', 'N', 'E', 'X', 'T']]
    | .nextU32 => wordsOf line = [['N', 'E', 'X', 'T', '_', 'U', '3', '2']]
    | .nextI32 => wordsOf line = [['N', 'E', 'X', 'T', '_', 'I', '3', '2']]
    | .nextUniform => wordsOf line = [['N', 'E', 'X', 'T', '_', 'U', 'N', 'I', 'F', 'O', 'R', 'M']]
    | .op n => ∃ digits, wordsOf line = [['.', 'o', 'p'], '0' :: 'x' :: digits] ∧ hexNumeral digits n

/-- R9, R37: a text is assembled line by line, in order: a line that is a command gives its one command, a line that holds
only a comment or nothing gives none, and a line that is in error, whatever good lines stand before it, ends the text with that
error (that a line may be empty, that lines end at a newline,
and that the first error is the one reported, is the model's, notes/assumptions/8.md). -/
def Obligations.TextAssemblesLineByLine : Prop :=
  ∀ line : List Char, '\n' ∉ line →
    (∀ (l : AsmLine) (c : Cmd), parseLine line = .ok (some l) → assembleLine l = .ok c →
      assemble line = .ok [c] ∧
      (∀ (rest : List Char) (cs : List Cmd), assemble rest = .ok cs →
        assemble (line ++ '\n' :: rest) = .ok (c :: cs)) ∧
      ∀ (rest : List Char) (e : AsmError), assemble rest = .error e →
        assemble (line ++ '\n' :: rest) = .error e) ∧
    (parseLine line = .ok none →
      assemble line = .ok [] ∧ ∀ rest : List Char, assemble (line ++ '\n' :: rest) = assemble rest) ∧
    (∀ e : AsmError, parseLine line = .error e ∨ (∃ l, parseLine line = .ok (some l) ∧ assembleLine l = .error e) →
      assemble line = .error e ∧ ∀ rest : List Char, assemble (line ++ '\n' :: rest) = .error e)
end

