-- ==== Sys2Proof/Laws/Datapath.lean ====
section
/-! SUPPORT. The integer functions as numbers (spec/40_seed.md R40, spec/41_step.md R45, spec/42_slice_int.md R50). -/

namespace Sys2Proof.Machine

theorem muladd48_toNat (s : Word48) : (muladd48 s).toNat = (0x5DEECE66D * s.toNat + 0xB) % 2 ^ 48 :=
  BitVec.toNat_ofNat _ _

theorem hi32_toNat (s : Word48) : (hi32 s).toNat = s.toNat / 65536 := by
  have := s.isLt
  simp only [hi32, BitVec.extractLsb'_toNat, Nat.shiftRight_eq_div_pow]
  omega

end Sys2Proof.Machine
end

