-- ==== Sys2Proof/Laws/Decode.lean ====
section
/-! SUPPORT. The two fields of a packed command (spec/30_encoding.md R30), and what the decoder answers, opcode by opcode
(R33, R34). -/

namespace Sys2Proof

theorem packCommand_toNat (op : Opcode) (arg : Word64) :
    (packCommand op arg).toNat = op.toNat * 2 ^ 64 + arg.toNat := by
  have := arg.isLt
  rw [packCommand, BitVec.toNat_append, Nat.shiftLeft_eq, Nat.mul_comm, ← Nat.two_pow_add_eq_or_of_lt this]

theorem opField_packCommand (op : Opcode) (arg : Word64) : opField (packCommand op arg) = op := by
  apply BitVec.eq_of_toNat_eq
  have := op.isLt
  have := arg.isLt
  simp only [opField, BitVec.extractLsb'_toNat, Nat.shiftRight_eq_div_pow, packCommand_toNat]
  omega

theorem argField_packCommand (op : Opcode) (arg : Word64) : argField (packCommand op arg) = arg := by
  apply BitVec.eq_of_toNat_eq
  have := arg.isLt
  simp only [argField, BitVec.extractLsb'_toNat, Nat.shiftRight_eq_div_pow, packCommand_toNat]
  omega

theorem decode_of_opcode_seed {c : Cmd} (h : opField c = 0x01) : decode c = .ok (.seed (argField c)) := by
  rw [decode, if_pos h]

theorem decode_of_opcode_rawNext {c : Cmd} (h : opField c = 0x02) : decode c = .ok .rawNext := by
  rw [decode, h]
  rfl

theorem decode_of_opcode_nextU32 {c : Cmd} (h : opField c = 0x03) : decode c = .ok .nextU32 := by
  rw [decode, h]
  rfl

theorem decode_of_opcode_nextI32 {c : Cmd} (h : opField c = 0x04) : decode c = .ok .nextI32 := by
  rw [decode, h]
  rfl

theorem decode_of_opcode_nextUniform {c : Cmd} (h : opField c = 0x05) : decode c = .ok .nextUniform := by
  rw [decode, h]
  rfl

/-- An opcode other than the five is refused by name. -/
theorem decode_of_other_opcode {c : Cmd} (h1 : opField c ≠ 0x01) (h2 : opField c ≠ 0x02) (h3 : opField c ≠ 0x03)
    (h4 : opField c ≠ 0x04) (h5 : opField c ≠ 0x05) : decode c = .error (.illegalCommand (opField c)) := by
  rw [decode, if_neg h1, if_neg h2, if_neg h3, if_neg h4, if_neg h5]

end Sys2Proof
end

