-- ==== Sys2Proof/Laws/State.lean ====
section
/-! SUPPORT. One lemma per field per update of the state. -/

namespace Sys2Proof.Machine

@[simp] theorem respond_state (r : Response) (s : State) : (respond r s).state = s.state := rfl
@[simp] theorem respond_fault (r : Response) (s : State) : (respond r s).fault = s.fault := rfl
@[simp] theorem respond_response (r : Response) (s : State) : (respond r s).response = some r := rfl
@[simp] theorem respond_inputs (r : Response) (s : State) : (respond r s).inputs = s.inputs := rfl

@[simp] theorem writeState_state (v : Word48) (s : State) : (writeState v s).state = some v := rfl
@[simp] theorem writeState_fault (v : Word48) (s : State) : (writeState v s).fault = s.fault := rfl
@[simp] theorem writeState_response (v : Word48) (s : State) : (writeState v s).response = s.response := rfl
@[simp] theorem writeState_inputs (v : Word48) (s : State) : (writeState v s).inputs = s.inputs := rfl

@[simp] theorem raiseFault_state (c : Cause) (s : State) : (raiseFault c s).state = s.state := rfl
@[simp] theorem raiseFault_fault (c : Cause) (s : State) : (raiseFault c s).fault = some c := rfl
@[simp] theorem raiseFault_response (c : Cause) (s : State) : (raiseFault c s).response = some (.fault c) := rfl
@[simp] theorem raiseFault_inputs (c : Cause) (s : State) : (raiseFault c s).inputs = s.inputs := rfl

@[simp] theorem refuse_state (c : Cause) (s : State) : (refuse c s).state = s.state := rfl
@[simp] theorem refuse_fault (c : Cause) (s : State) : (refuse c s).fault = s.fault := rfl
@[simp] theorem refuse_response (c : Cause) (s : State) : (refuse c s).response = some (.fault c) := rfl
@[simp] theorem refuse_inputs (c : Cause) (s : State) : (refuse c s).inputs = s.inputs := rfl

@[simp] theorem assertReset_state (s : State) : (assertReset s).state = none := rfl
@[simp] theorem assertReset_fault (s : State) : (assertReset s).fault = none := rfl
@[simp] theorem assertReset_response (s : State) : (assertReset s).response = none := rfl
@[simp] theorem assertReset_inputs (s : State) : (assertReset s).inputs = s.inputs := rfl

@[simp] theorem idle_state (s : State) : (idle s).state = s.state := rfl
@[simp] theorem idle_fault (s : State) : (idle s).fault = s.fault := rfl
@[simp] theorem idle_response (s : State) : (idle s).response = none := rfl
@[simp] theorem idle_inputs (s : State) : (idle s).inputs = s.inputs := rfl

@[simp] theorem presentNext_state (c : Cmd) (s : State) : (presentNext c s).state = s.state := rfl
@[simp] theorem presentNext_fault (c : Cmd) (s : State) : (presentNext c s).fault = s.fault := rfl
@[simp] theorem presentNext_response (c : Cmd) (s : State) : (presentNext c s).response = s.response := rfl
@[simp] theorem presentNext_inputs (c : Cmd) (s : State) : (presentNext c s).inputs = .command c :: s.inputs := rfl

end Sys2Proof.Machine
end

