-- ==== Sys2Proof/Laws/Ops.lean ====
section
/-! SUPPORT. What each shared operation can do, said once (spec/30_encoding.md R35, spec/60_exceptions.md R63, R65). -/

namespace Sys2Proof.Machine

theorem unlessFaulted_of_faulted {k : State → State} {s : State} {held : Cause} (h : s.fault = some held) :
    unlessFaulted k s = refuse held s := by
  simp only [unlessFaulted, h]

theorem unlessFaulted_of_clear {k : State → State} {s : State} (h : s.fault = none) : unlessFaulted k s = k s := by
  simp only [unlessFaulted, h]

theorem whenSeeded_of_seeded {k : Word48 → State → State} {s : State} {v : Word48} (h : s.state = some v) :
    whenSeeded k s = k v s := by
  simp only [whenSeeded, h]

theorem whenSeeded_of_unseeded {k : Word48 → State → State} {s : State} (h : s.state = none) :
    whenSeeded k s = raiseFault .notSeeded s := by
  simp only [whenSeeded, h]

/-- Everything a step command can do, whatever its slice. -/
theorem stepCommand_cases (slice : Word48 → State → State) (s : State) :
    (∃ held, s.fault = some held ∧ stepCommand slice s = refuse held s) ∨
    (s.fault = none ∧ s.state = none ∧ stepCommand slice s = raiseFault .notSeeded s) ∨
    (∃ v, s.fault = none ∧ s.state = some v ∧
      stepCommand slice s = slice (muladd48 v) (writeState (muladd48 v) s)) := by
  rcases hf : s.fault with _ | held
  · rcases hv : s.state with _ | v
    · exact .inr (.inl ⟨rfl, rfl, (unlessFaulted_of_clear hf).trans (whenSeeded_of_unseeded hv)⟩)
    · exact .inr (.inr ⟨v, rfl, rfl, (unlessFaulted_of_clear hf).trans (whenSeeded_of_seeded hv)⟩)
  · exact .inl ⟨held, rfl, unlessFaulted_of_faulted hf⟩

/-- Everything SEED can do. -/
theorem execSeed_cases (arg : Word64) (s : State) :
    (∃ held, s.fault = some held ∧ execSeed arg s = .next (refuse held s)) ∨
    (s.fault = none ∧ execSeed arg s = .next (respond .done (writeState (scramble arg) s))) := by
  rcases hf : s.fault with _ | held
  · exact .inr ⟨rfl, congrArg _ (unlessFaulted_of_clear hf)⟩
  · exact .inl ⟨held, rfl, congrArg _ (unlessFaulted_of_faulted hf)⟩

/-- Everything an illegal opcode can do. -/
theorem illegalCommand_cases (s : State) :
    (∃ held, s.fault = some held ∧ illegalCommand s = refuse held s) ∨
    (s.fault = none ∧ illegalCommand s = raiseFault .illegalCommand s) := by
  rcases hf : s.fault with _ | held
  · exact .inr ⟨rfl, unlessFaulted_of_clear hf⟩
  · exact .inl ⟨held, rfl, unlessFaulted_of_faulted hf⟩

/-- Everything the float slice can do with a step result. -/
theorem uniformSlice_cases (v : Word48) (s : State) :
    ((unit32 (hi32 v)).inUnitInterval = true ∧
      uniformSlice v s = respond (.ok (floatData (f32Bits (unit32 (hi32 v))))) s) ∨
    ((unit32 (hi32 v)).inUnitInterval = false ∧ uniformSlice v s = raiseFault .unitInterval s) := by
  rcases h : (unit32 (hi32 v)).inUnitInterval with _ | _
  · exact .inr ⟨rfl, by simp only [uniformSlice, h, Bool.false_eq_true, if_false]⟩
  · exact .inl ⟨rfl, by simp only [uniformSlice, h, if_true]⟩

theorem execute_of_decoded {c : Cmd} {i : Instr} (h : decode c = .ok i) (s : State) : execute c s = exec i s := by
  simp only [execute, h]

theorem execute_of_illegal {c : Cmd} {e : DecodeError} (h : decode c = .error e) (s : State) :
    execute c s = .next (illegalCommand s) := by
  simp only [execute, h]

theorem step_of_idle {s : State} (h : s.inputs = []) : step s = .next (idle s) := by
  simp only [step, acceptInput, h]

theorem step_of_command {s : State} {c : Cmd} {rest : List HostInput} (h : s.inputs = .command c :: rest) :
    step s = execute c { s with inputs := rest } := by
  simp only [step, acceptInput, h]

theorem step_of_reset {s : State} {rest : List HostInput} (h : s.inputs = .reset :: rest) :
    step s = .next (assertReset { s with inputs := rest }) := by
  simp only [step, acceptInput, h]

theorem step_of_resetDuring {s : State} {c : Cmd} {rest : List HostInput} (h : s.inputs = .resetDuring c :: rest) :
    step s = .next (assertReset { s with inputs := rest }) := by
  simp only [step, acceptInput, h]

end Sys2Proof.Machine
end

