-- ==== Sys2Proof/Laws/PerInstr.lean ====
section
/-! SUPPORT. The family EncodedOpcode: the command word of an instruction carries its opcode of the table of
spec/30_encoding.md R33, one that the port accepts (R34), and its operand (R32). -/

namespace Sys2Proof.Laws.EncodedOpcode

def Statement (i : Instr) : Prop :=
  opField (encode i) = opcodeOf i ∧ argField (encode i) = argOf i ∧ legalOpcode (opField (encode i)) = true

theorem seed (arg : Word64) : Statement (.seed arg) := by
  refine ⟨opField_packCommand _ _, argField_packCommand _ _, ?_⟩
  rw [encode, opField_packCommand]
  exact (by decide : legalOpcode 0x01 = true)

theorem rawNext : Statement .rawNext := by
  unfold Statement
  decide

theorem nextU32 : Statement .nextU32 := by
  unfold Statement
  decide

theorem nextI32 : Statement .nextI32 := by
  unfold Statement
  decide

theorem nextUniform : Statement .nextUniform := by
  unfold Statement
  decide

end Sys2Proof.Laws.EncodedOpcode
end

