-- ==== Sys2Proof/Tests/Slice0.lean ====
section
/-! SUPPORT. Tests against the vectors of spec/95_test_vectors.md, the well-formedness smoke tests, and a witness for the
hypotheses of each statement that has some. -/

namespace Sys2Proof.Tests

open Sys2Proof.Machine

/-- A block with the given registers that has given no response. -/
def block (state : Option Word48) (fault : Option Cause) (inputs : List HostInput) : State :=
  { state := state, fault := fault, response := none, inputs := inputs }

/-- What a test looks at: the registers and the response after an outcome. -/
def seen : Host.Outcome State Fault Refusal → Option (Option Word48 × Option Cause × Option Response)
  | .next t => some (t.state, t.fault, t.response)
  | .fault _ => none
  | .refused _ => none

/-! ### Well-formedness: each check refuses an ill-formed term -/

/-- R34: 0x00 and 0x06 to 0xFF name no command. -/
theorem test_opcodes_below_and_above_refused :
    legalOpcode 0x00 = false ∧ legalOpcode 0x06 = false ∧ legalOpcode 0xFF = false ∧
    legalOpcode 0x01 = true ∧ legalOpcode 0x05 = true := by decide

/-- R37: a seed literal of 65 bits and an opcode literal of 9 bits do not fit. -/
theorem test_wide_literals_refused :
    (AsmLine.seed (2 ^ 64)).wellFormed = false ∧ (AsmLine.op 256).wellFormed = false ∧
    (AsmLine.seed (2 ^ 64 - 1)).wellFormed = true ∧ (AsmLine.op 255).wellFormed = true := by decide

/-! ### Decoding: the words of V15, written out from the format of R30 -/

theorem test_decode_seed :
    decode 0x01DEADBEEFCAFEBABE = .ok (.seed 0xDEADBEEFCAFEBABE) ∧
    encode (.seed 42) = 0x01000000000000002A := by decide

theorem test_decode_rawNext :
    decode 0x020000000000000000 = .ok .rawNext ∧ decode 0x02FFFFFFFFFFFFFFFF = .ok .rawNext ∧
    encode .rawNext = 0x020000000000000000 := by decide

theorem test_decode_nextU32 : decode 0x030000000000000000 = .ok .nextU32 ∧ encode .nextU32 = 0x030000000000000000 := by
  decide

theorem test_decode_nextI32 : decode 0x040000000000000000 = .ok .nextI32 ∧ encode .nextI32 = 0x040000000000000000 := by
  decide

theorem test_decode_nextUniform :
    decode 0x050000000000000000 = .ok .nextUniform ∧ encode .nextUniform = 0x050000000000000000 := by decide

theorem test_decode_illegal :
    decode 0x000000000000000000 = .error (.illegalCommand 0x00) ∧
    decode 0x060000000000000000 = .error (.illegalCommand 0x06) ∧
    decode 0xFF0000000000000000 = .error (.illegalCommand 0xFF) := by decide

/-- The words of spec/opcode_table.json (their `match`), as the table numbers them. -/
theorem test_decodeTableWord :
    decodeTableWord 72 0x010000000000000000 = some (.seed 0) ∧ decodeTableWord 72 0x020000000000000000 = some .rawNext ∧
    decodeTableWord 72 0x030000000000000000 = some .nextU32 ∧ decodeTableWord 72 0x040000000000000000 = some .nextI32 ∧
    decodeTableWord 72 0x050000000000000000 = some .nextUniform ∧ decodeTableWord 72 0 = none := by decide

/-! ### The functions -/

/-- V5 to V9: `scramble`. -/
theorem test_scramble :
    scramble 0 = 0x00000000330E ∧ scramble 1 = 0x00000001330E ∧ scramble 0x80000000 = 0x80000000330E ∧
    scramble 0x100000000 = 0x00000000330E ∧ scramble 0xFFFFFFFFFFFFFFFF = 0xFFFFFFFF330E ∧
    scramble 0x0123456789ABCDEF = 0x89ABCDEF330E := by decide

/-- V11: `muladd48` at its corners. -/
theorem test_muladd48 :
    muladd48 0 = 0xB ∧ muladd48 1 = 0x0005DEECE678 ∧ muladd48 0x00000000330E = 0x2BBB62DC5101 ∧
    muladd48 0x2BBB62DC5101 = 0xBFF993816378 ∧ muladd48 0x7FFFFFFFFFFF = 0x7FFA2113199E ∧
    muladd48 0xFFFFFFFFFFFF = 0xFFFA2113199E ∧ muladd48 0x615C0E462AA9 = 0 ∧
    muladd48 0x817BB27B1744 = 0xFFFFFFFFFFFF := by decide

/-- V13: the binary64 quotient, pattern by pattern. -/
theorem test_quotient_patterns :
    f64Bits (quotient64 0) = 0 ∧ f64Bits (quotient64 1) = 0x3DF0000000100000 ∧
    f64Bits (quotient64 0x2BBB62DC) = 0x3FC5DDB16E15DDB1 ∧ f64Bits (quotient64 0x55555555) = 0x3FD5555555555555 ∧
    f64Bits (quotient64 0xFFFFFE7F) = 0x3FEFFFFFD0000000 ∧ f64Bits (quotient64 0xFFFFFF7E) = 0x3FEFFFFFEFE00000 ∧
    f64Bits (quotient64 0xFFFFFF7F) = 0x3FEFFFFFF0000000 ∧
    f64Bits (quotient64 0xFFFFFFFF) = 0x3FF0000000000000 := by decide +kernel

/-- V13: the binary32 result, both ties among them. -/
theorem test_uniform_patterns :
    f32Bits (unit32 0) = 0 ∧ f32Bits (unit32 1) = 0x2F800000 ∧ f32Bits (unit32 0x00FFFFFF) = 0x3B7FFFFF ∧
    f32Bits (unit32 0x01000002) = 0x3B800001 ∧ f32Bits (unit32 0x01000003) = 0x3B800002 ∧
    f32Bits (unit32 0x2BBB62DC) = 0x3E2EED8B ∧ f32Bits (unit32 0x7FFFFFBF) = 0x3EFFFFFF ∧
    f32Bits (unit32 0x80000080) = 0x3F000001 ∧ f32Bits (unit32 0xFFFFFE7F) = 0x3F7FFFFE ∧
    f32Bits (unit32 0xFFFFFE80) = 0x3F7FFFFF ∧ f32Bits (unit32 0xFFFFFF7E) = 0x3F7FFFFF ∧
    f32Bits (unit32 0xFFFFFF7F) = 0x3F800000 := by decide +kernel

/-! ### One command each -/

/-- V16, R41, R43: SEED from reset, and over an old stream. -/
theorem test_seed :
    seen (exec (.seed 0) State.reset) = some (some 0x00000000330E, none, some .done) ∧
    seen (exec (.seed 1) (block (some 0x00000000330E) none [])) = some (some 0x00000001330E, none, some .done) := by decide

/-- V16, R65: SEED does not recover a faulted block. -/
theorem test_seed_refused :
    seen (exec (.seed 0) (block none (some .notSeeded) [])) = some (none, some .notSeeded, some (.fault .notSeeded)) := by
  decide

/-- V2. -/
theorem test_rawNext :
    seen (exec .rawNext (block (some 0x00000000330E) none [])) =
      some (some 0x2BBB62DC5101, none, some (.ok 0x00002BBB62DC5101)) := by decide

/-- V16: a step before any SEED. -/
theorem test_rawNext_unseeded :
    seen (exec .rawNext State.reset) = some (none, some .notSeeded, some (.fault .notSeeded)) := by decide

/-- V16: the step that faults NEXT_UNIFORM does not fault NEXT_U32. -/
theorem test_nextU32 :
    seen (exec .nextU32 (block (some 0xFCF2E54F330E) none [])) =
      some (some 0xFFFFFF7F5101, none, some (.ok 0x00000000FFFFFF7F)) := by decide

/-- R52's worked example, the second step after SEED 0, and P2: sign extension. -/
theorem test_nextI32 :
    seen (exec .nextI32 (block (some 0x2BBB62DC5101) none [])) =
      some (some 0xBFF993816378, none, some (.ok 0xFFFFFFFFBFF99381)) ∧
    seen (exec .nextI32 (block (some 0xE9952FB65101) none [])) =
      some (some 0x28B9A8536378, none, some (.ok 0x0000000028B9A853)) := by decide

/-- P1 line 5 and P4's companion: NEXT_UNIFORM returns. -/
theorem test_nextUniform_returns :
    seen (exec .nextUniform (block (some 0x18ABD0152A23) none [])) =
      some (some 0xDED6CF2262F2, none, some (.ok 0x000000003F5ED6CF)) ∧
    seen (exec .nextUniform (block (some 0xA127D1EA330E) none [])) =
      some (some 0xFFFFFF7E5101, none, some (.ok 0x000000003F7FFFFF)) := by decide +kernel

/-- V16, P4: NEXT_UNIFORM faults, its step kept. -/
theorem test_nextUniform_faults :
    seen (exec .nextUniform (block (some 0xFCF2E54F330E) none [])) =
      some (some 0xFFFFFF7F5101, some .unitInterval, some (.fault .unitInterval)) := by decide +kernel

/-! ### The port -/

/-- V16: an illegal opcode before any SEED, and on a seeded block. -/
theorem test_illegal_opcode :
    seen (step (block none none [.command 0x000000000000000000])) =
      some (none, some .illegalCommand, some (.fault .illegalCommand)) ∧
    seen (step (block (some 0x00000000330E) none [.command 0x060000000000000000])) =
      some (some 0x00000000330E, some .illegalCommand, some (.fault .illegalCommand)) := by decide

/-- V16: a faulted block reports the code it holds, not the one the command would have raised. -/
theorem test_held_code :
    seen (step (block (some 0xFFFFFF7F5101) (some .unitInterval) [.command 0x000000000000000000])) =
      some (some 0xFFFFFF7F5101, some .unitInterval, some (.fault .unitInterval)) := by decide

/-- V16, R70: reset, between commands and during one. -/
theorem test_reset :
    seen (step (block (some 0xFFFFFF7F5101) (some .unitInterval) [.reset])) = some (none, none, none) ∧
    seen (step (block (some 5) none [.resetDuring 0x020000000000000000])) = some (none, none, none) := by decide

/-- The first instruction after reset runs where it is placed. -/
theorem test_withFetchWord :
    seen (step (State.reset.withFetchWord 72 0x01000000000000002A)) = some (some 0x0000002A330E, none, some .done) := by
  decide

/-- V15: the wire images of responses. -/
theorem test_response_wire :
    Response.done.wire = 0 ∧ (Response.ok 0xFFFFFFFFBFF99381).wire = 0x0FFFFFFFFBFF99381 ∧
    (Response.fault .notSeeded).wire = 0x10000000000000000 ∧
    (Response.fault .unitInterval).wire = 0x30000000000000000 := by decide

/-- R15: `STATUS = fault || seeded`. -/
theorem test_status :
    State.reset.status = 0b000 ∧ (block (some 0) none []).status = 0b001 ∧
    (block (some 0) (some .unitInterval) []).status = 0b111 ∧
    (block none (some .notSeeded) []).status = 0b010 := by decide

/-- R37, P3 line 4: an operand in hexadecimal with an underscore, a comment, a line without a command, an illegal opcode. -/
theorem test_assemble :
    assemble ['S', 'E', 'E', 'D', ' ', '0', 'x', 'A', '_', 'f', ' ', ';', ' ', 'x', '\n',
      ';', '\n', 'R', 'A', 'W', '_', 'N', 'E', 'X', 'T', '\n', '.', 'o', 'p', ' ', '0', 'x', 'F', 'F', '\n',
      'S', 'E', 'E', 'D', ' ', '4', '2'] =
      .ok [0x0100000000000000AF, 0x020000000000000000, 0xFF0000000000000000, 0x01000000000000002A] := by decide +kernel

/-- R37: mnemonics are upper case, and `.op` takes a hexadecimal literal. -/
theorem test_assemble_refuses :
    assemble ['s', 'e', 'e', 'd', ' ', '1'] = .error .unknownLine ∧
    assemble ['.', 'o', 'p', ' ', '7'] = .error .badLiteral := by decide +kernel

/-! ### Witnesses: the hypotheses of each statement can be met together -/

/-- A seeded block, and its next two states. -/
def seededBlock : State := block (some 0x00000000330E) none []

theorem witness_IllegalOpcodesRaise :
    ((opField 0x000000000000000000).toNat = 0 ∨ 6 ≤ (opField 0x000000000000000000).toNat) ∧
    ((opField 0x060000000000000000).toNat = 0 ∨ 6 ≤ (opField 0x060000000000000000).toNat) ∧
    ((opField 0xFF0000000000000000).toNat = 0 ∨ 6 ≤ (opField 0xFF0000000000000000).toNat) ∧
    State.reset.fault = none := by decide

theorem witness_OperandIsOnlySeedsLowHalf :
    (0xABCDEF010000002A : Word64).toNat % 2 ^ 32 = (0x2A : Word64).toNat % 2 ^ 32 ∧ (0x02 : Opcode) ≠ 0x01 := by decide

theorem witness_AssembledLinesAreTheirCommands :
    (2 ^ 64 - 1 < 2 ^ 64 ∧ 2 ^ 64 ≤ 2 ^ 64) ∧ 255 < 256 ∧ 256 ≤ 256 := by decide

/-- Numerals: P3's decimal literal, one with an underscore and a leading zero, and the least. -/
theorem witness_decimalNumeral :
    decimalNumeral ['4', '2'] 42 ∧ decimalNumeral ['0', '4', '_', '2'] 42 ∧ decimalNumeral ['0'] 0 :=
  ⟨⟨0, by decide⟩, ⟨1, by decide⟩, ⟨0, by decide⟩⟩

/-- Numerals: P6's upper-case digits, the two cases mixed with an underscore, and a leading zero. -/
theorem witness_hexNumeral :
    hexNumeral ['F', 'F'] 255 ∧ hexNumeral ['a', '_', 'F'] 0xAF ∧ hexNumeral ['0', '6'] 6 :=
  ⟨⟨0, .cons (by decide) (.cons (by decide) .nil)⟩, ⟨0, .cons (by decide) (.cons (by decide) .nil)⟩,
    ⟨1, .cons (by decide) (.cons (by decide) .nil)⟩⟩

theorem witness_AssemblerTextReadsAsItsLines :
    ['.', 'o', 'p'] ≠ [] ∧ ['0', 'x', 'F', 'F'] ≠ [] ∧
    ∀ c ∈ ['.', 'o', 'p'] ++ ['0', 'x', 'F', 'F'], c ≠ ' ' ∧ c ≠ '\t' ∧ c ≠ ';' := by simp

/-- The cases of TextAssemblesLineByLine: a command line, before a good text and before one in error; a comment line; a line
that is no line; a line whose literal is too wide. -/
theorem witness_TextAssemblesLineByLine :
    ('\n' ∉ ['N', 'E', 'X', 'T', '_', 'U', '3', '2'] ∧
      parseLine ['N', 'E', 'X', 'T', '_', 'U', '3', '2'] = .ok (some .nextU32) ∧
      assembleLine .nextU32 = .ok 0x030000000000000000 ∧ assemble [] = .ok [] ∧
      assemble ['N', 'O', 'P'] = .error .unknownLine) ∧
    ('\n' ∉ [';', 'x'] ∧ parseLine [';', 'x'] = .ok none) ∧
    ('\n' ∉ ['N', 'O', 'P'] ∧ parseLine ['N', 'O', 'P'] = .error .unknownLine) ∧
    ('\n' ∉ ['.', 'o', 'p', ' ', '0', 'x', '1', '0', '0'] ∧
      parseLine ['.', 'o', 'p', ' ', '0', 'x', '1', '0', '0'] = .ok (some (.op 256)) ∧
      assembleLine (.op 256) = .error .literalTooWide) := by decide +kernel

theorem witness_StepExecutesThePresentedCommand_legal :
    (block none none [.command 0x01000000000000002A]).inputs = .command 0x01000000000000002A :: [] ∧
    decode 0x01000000000000002A = .ok (.seed 42) := by decide

theorem witness_StepExecutesThePresentedCommand_illegal :
    (block none none [.command 0x060000000000000000]).inputs = .command 0x060000000000000000 :: [] ∧
    decode 0x060000000000000000 = .error (.illegalCommand 0x06) := by decide

theorem witness_OneResponsePerCommand_command :
    (block none none [.command 0x060000000000000000]).inputs = .command 0x060000000000000000 :: [] := by decide

theorem witness_OneResponsePerCommand_none :
    (∀ c rest, State.reset.inputs ≠ .command c :: rest) ∧
    (∀ c rest, (block none none [.reset]).inputs ≠ .command c :: rest) := by
  constructor <;> intro c rest h <;> cases h

theorem witness_ResetErasesEverything :
    ((block (some 5) (some .unitInterval) [.reset]).inputs = .reset :: [] ∨
      (block (some 5) (some .unitInterval) [.reset]).inputs = .resetDuring 0 :: []) ∧
    ((block (some 5) none [.resetDuring 0]).inputs = .reset :: [] ∨
      (block (some 5) none [.resetDuring 0]).inputs = .resetDuring 0 :: []) := by decide

theorem witness_IdleKeepsTheRegisters : seededBlock.inputs = [] := by decide

theorem witness_SeedConstructsTheGenerator : State.reset.fault = none ∧ seededBlock.fault = none := by decide

/-- Meets the hypotheses of RawNextReturnsTheNewState, NextU32ReturnsTheUpperBits, NextI32ReturnsTheSignedUpperBits,
NextUniformReturnsOrFaults, ExtractionIsConsistent and ConsecutiveRawResultsDiffer. -/
theorem witness_usable_block :
    seededBlock.fault = none ∧ seededBlock.state = some 0x00000000330E ∧ seededBlock.state ≠ none := by decide

theorem witness_NextUniformReturnsBelowTheFaultSet :
    (block (some 0xA127D1EA330E) none []).fault = none ∧ (block (some 0xA127D1EA330E) none []).state = some 0xA127D1EA330E ∧
    (25214903917 * (0xA127D1EA330E : Word48).toNat + 11) % 2 ^ 48 / 65536 ≤ 0xFFFFFF7E := by decide

theorem witness_NextUniformFaultsOnTheFaultSet :
    (block (some 0xFCF2E54F330E) none []).fault = none ∧ (block (some 0xFCF2E54F330E) none []).state = some 0xFCF2E54F330E ∧
    0xFFFFFF7F ≤ (25214903917 * (0xFCF2E54F330E : Word48).toNat + 11) % 2 ^ 48 / 65536 := by decide

theorem witness_UnseededStepRaisesNotSeeded :
    (∀ a, Instr.nextUniform ≠ .seed a) ∧ State.reset.fault = none ∧ State.reset.state = none := by
  refine ⟨fun a h => ?_, rfl, rfl⟩
  cases h

theorem witness_FaultedBlockRefusesEveryCommand :
    (block (some 0xFFFFFF7F5101) (some .unitInterval) [.reset]).fault = some .unitInterval ∧
    (block (some 0xFFFFFF7F5101) (some .unitInterval) [.reset]).inputs = .reset :: [] := by decide

theorem witness_CommandsLeaveTheRestUnchanged_faulted :
    exec .rawNext (block none (some .notSeeded) []) =
      .next { block none (some .notSeeded) [] with response := some (.fault .notSeeded) } ∧
    (block none (some .notSeeded) []).fault ≠ none := ⟨rfl, by decide⟩

theorem witness_CommandsLeaveTheRestUnchanged_seed :
    exec (.seed 0) State.reset = .next { State.reset with state := some (scramble 0), response := some .done } := rfl

theorem witness_CommandsLeaveTheRestUnchanged_unseeded :
    exec .nextI32 State.reset =
      .next { State.reset with fault := some .notSeeded, response := some (.fault .notSeeded) } ∧
    ({ State.reset with fault := some .notSeeded, response := some (.fault .notSeeded) } : State).fault ≠
      State.reset.fault := ⟨rfl, by decide⟩

theorem witness_CommandsLeaveTheRestUnchanged_uniform :
    ∃ t, exec .nextUniform (block (some 0xFCF2E54F330E) none []) = .next t ∧
      t.fault ≠ (block (some 0xFCF2E54F330E) none []).fault :=
  ⟨_, rfl, by decide +kernel⟩

theorem witness_LowBitsFeedLowBits : (1 ≤ 1 ∧ 1 ≤ 48) ∧ (1 ≤ 48 ∧ 48 ≤ 48) := by decide

theorem witness_EngineImplementationsAgree : 48 ≤ 48 ∧ 48 ≤ 64 := by decide

theorem witness_StatesFormOneCycle : (0 < 1 ∧ 1 < 2 ^ 48) ∧ (0 < 2 ^ 48 - 1 ∧ 2 ^ 48 - 1 < 2 ^ 48) := by decide

/-- Meets the hypotheses of ExponentBracketsTheValue and RoundingIsToNearestTiesToEven. -/
theorem witness_positive_ratio : 1 ≤ 24 ∧ 0 < (Ratio.mk 1 3).num ∧ 0 < (Ratio.mk 1 3).den := by decide

theorem witness_FaultSetIsExact :
    0xFFFFFF7F ≤ (0xFFFFFF7F : Word32).toNat ∧ (0xFFFFFF7E : Word32).toNat ≤ 0xFFFFFF7E := by decide

theorem witness_PatternDenotesTheValue : (1 : Word32) ≠ 0 ∧ (0xFFFFFFFF : Word32) ≠ 0 := by decide

theorem witness_UniformIsMonotone :
    (0xFFFFFF7E : Word32).toNat ≤ (0xFFFFFF7F : Word32).toNat ∧
    (0x7FFFFFC0 ≤ (0x7FFFFFC0 : Word32).toNat ∧ (0x7FFFFFC0 : Word32).toNat ≤ 0x8000007F) ∧
    (0x7FFFFFC0 ≤ (0x8000007F : Word32).toNat ∧ (0x8000007F : Word32).toNat ≤ 0x8000007F) := by decide

theorem witness_StreamPositionCountsTheSteps :
    (∀ j ∈ [Instr.rawNext] ++ [Instr.nextI32], isStepCommand j = true) ∧
    (block none none [present (.seed 2), present .rawNext, present .nextI32]).fault = none ∧
    (block none none [present (.seed 2), present .rawNext, present .nextI32]).inputs =
      present (.seed 2) :: (([Instr.rawNext] ++ [Instr.nextI32]).map present ++ []) := by decide

/-- The premise inside StreamPositionCountsTheSteps is met for each last opcode: after SEED 2 and each of the four step
commands no fault is recorded. -/
theorem witness_StreamPositionCountsTheSteps_noFault :
    ∀ i ∈ [Instr.rawNext, .nextU32, .nextI32, .nextUniform],
      ∃ t, runSteps 2 (block none none [present (.seed 2), present i]) = .next t ∧ t.fault = none := by
  intro i hi
  simp only [List.mem_cons, List.not_mem_nil, or_false] at hi
  rcases hi with rfl | rfl | rfl | rfl
  · exact ⟨_, rfl, by decide⟩
  · exact ⟨_, rfl, by decide⟩
  · exact ⟨_, rfl, by decide⟩
  · exact ⟨_, rfl, by decide +kernel⟩

theorem witness_SeedErasesHistory :
    (block none none [present (.seed 7), present .nextU32]).fault = none ∧
    (block (some 5) none [present (.seed 7), present .nextU32]).fault = none ∧
    (block none none [present (.seed 7), present .nextU32]).inputs = present (.seed 7) :: [present .nextU32] ∧
    (block (some 5) none [present (.seed 7), present .nextU32]).inputs =
      (block none none [present (.seed 7), present .nextU32]).inputs := by decide

theorem witness_FaultIsStickyUntilReset :
    (block none (some .notSeeded) [.command 0x01000000000000002A, .command 0, .reset]).fault = some .notSeeded ∧
    (block none (some .notSeeded) [.command 0x01000000000000002A, .command 0, .reset]).inputs =
      [0x01000000000000002A, 0].map HostInput.command ++ [.reset] := by decide

theorem witness_IntegerHostNeverFaults :
    (block (some 5) none [present .rawNext, present (.seed 1)]).usable = true ∧
    (∀ i ∈ [Instr.rawNext, .seed 1], i ≠ .nextUniform) ∧
    (block (some 5) none [present .rawNext, present (.seed 1)]).inputs = [Instr.rawNext, .seed 1].map present ++ [] := by
  decide

theorem witness_OnlyResetUndoesSeedAndFault_unseeds :
    ∃ t, step (block (some 5) (some .illegalCommand) [.reset]) = .next t ∧
      (block (some 5) (some .illegalCommand) [.reset]).state ≠ none ∧ t.state = none ∧
      (block (some 5) (some .illegalCommand) [.reset]).fault ≠ none ∧
      t.fault ≠ (block (some 5) (some .illegalCommand) [.reset]).fault :=
  ⟨_, rfl, by decide, by decide, by decide, by decide⟩

theorem witness_OnlyResetUndoesSeedAndFault_seeds :
    ∃ t, step (block none none [present (.seed 1)]) = .next t ∧
      (block none none [present (.seed 1)]).state = none ∧ t.state ≠ none :=
  ⟨_, rfl, by decide, by decide⟩

theorem witness_OnlyResetUndoesSeedAndFault_faults :
    ∃ t, step (block none none [present .rawNext]) = .next t ∧
      (block none none [present .rawNext]).fault = none ∧ t.fault ≠ none :=
  ⟨_, rfl, by decide, by decide⟩

theorem witness_EveryStepKeepsConsistency :
    (block (some 0xFCF2E54F330E) none [present .nextUniform]).consistent = true ∧
    ∃ t, step (block (some 0xFCF2E54F330E) none [present .nextUniform]) = .next t := ⟨by decide, _, rfl⟩

end Sys2Proof.Tests
end

section
/-! PROOFS. The assembler text (spec/30_encoding.md R37): how a text splits into its lines, and what each kind of line adds. -/

namespace Sys2Proof.Machine

variable {line : List Char} {l : AsmLine} {c : Cmd} {e : AsmError}

/-! ### A text as its lines -/

theorem assemble_eq_assembleLines_splitOn (text : List Char) : assemble text = assembleLines (text.splitOn '\n') := rfl

theorem assemble_eq_of_newline_notMem (hline : '\n' ∉ line) : assemble line = assembleLines [line] := by
  rw [assemble_eq_assembleLines_splitOn, List.splitOn_eq_singleton hline]

theorem assemble_append_newline (hline : '\n' ∉ line) (rest : List Char) :
    assemble (line ++ '\n' :: rest) = assembleLines (line :: rest.splitOn '\n') := by
  rw [assemble_eq_assembleLines_splitOn, List.splitOn_append_cons_self_of_not_mem hline]

/-! ### What each kind of line adds -/

/-- A line is in error if it does not read, or reads as a line whose literal does not fit. -/
def LineInError (line : List Char) (e : AsmError) : Prop :=
  parseLine line = .error e ∨ ∃ l, parseLine line = .ok (some l) ∧ assembleLine l = .error e

@[simp] theorem assembleLines_nil : assembleLines [] = .ok [] := rfl

theorem assembleLines_cons_of_command (hread : parseLine line = .ok (some l)) (hword : assembleLine l = .ok c)
    (lines : List (List Char)) : assembleLines (line :: lines) = (assembleLines lines).map (c :: ·) := by
  simp only [assembleLines, hread, hword]
  cases assembleLines lines <;> rfl

theorem assembleLines_cons_of_empty (hread : parseLine line = .ok none) (lines : List (List Char)) :
    assembleLines (line :: lines) = assembleLines lines := by
  simp only [assembleLines, hread]

theorem assembleLines_cons_of_error (herr : LineInError line e) (lines : List (List Char)) :
    assembleLines (line :: lines) = .error e := by
  obtain hread | ⟨l, hread, hword⟩ := herr
  · simp only [assembleLines, hread]
  · simp only [assembleLines, hread, hword]

/-! ### A text line by line -/

theorem assemble_append_newline_of_command (hline : '\n' ∉ line) (hread : parseLine line = .ok (some l))
    (hword : assembleLine l = .ok c) (rest : List Char) :
    assemble (line ++ '\n' :: rest) = (assemble rest).map (c :: ·) := by
  rw [assemble_append_newline hline, assembleLines_cons_of_command hread hword, assemble_eq_assembleLines_splitOn rest]

theorem assemble_append_newline_of_empty (hline : '\n' ∉ line) (hread : parseLine line = .ok none) (rest : List Char) :
    assemble (line ++ '\n' :: rest) = assemble rest := by
  rw [assemble_append_newline hline, assembleLines_cons_of_empty hread, assemble_eq_assembleLines_splitOn rest]

/-- Settles O53: a text is its first line before the lines of the rest, and each kind of line has its equation in
`assembleLines`. -/
theorem textAssemblesLineByLine : Obligations.TextAssemblesLineByLine := by
  intro line hline
  have halone := assemble_eq_of_newline_notMem hline
  refine ⟨fun l c hread hword => ?command, fun hread => ?empty, fun e herr => ?error⟩
  case command =>
    have hbefore := assemble_append_newline_of_command hline hread hword
    refine ⟨?_, fun rest cs hrest => ?_, fun rest e hrest => ?_⟩
    · rw [halone, assembleLines_cons_of_command hread hword]; rfl
    · rw [hbefore, hrest]; rfl
    · rw [hbefore, hrest]; rfl
  case empty =>
    exact ⟨by rw [halone, assembleLines_cons_of_empty hread, assembleLines_nil],
      assemble_append_newline_of_empty hline hread⟩
  case error =>
    exact ⟨by rw [halone, assembleLines_cons_of_error herr],
      fun rest => by rw [assemble_append_newline hline, assembleLines_cons_of_error herr]⟩

end Sys2Proof.Machine
end

section
/-! PROOFS. What one command and one step can do to the registers (spec/10_state.md R11 to R17, spec/30_encoding.md R35), and
the status outputs (R15). -/

namespace Sys2Proof.Machine

/-! ### The slice of a step command -/

/-- What each step command does with its step result (R47, R51, R52, R56). SEED performs no step and has no slice; its arm is
never used. -/
def stepSlice : Instr → Word48 → State → State
  | .seed _, _ => id
  | .rawNext, v => respond (.ok (rawData v))
  | .nextU32, v => respond (.ok (unsignedData (hi32 v)))
  | .nextI32, v => respond (.ok (signedData (hi32 v)))
  | .nextUniform, v => uniformSlice v

theorem exec_of_isStepCommand {i : Instr} (h : isStepCommand i = true) (s : State) :
    exec i s = .next (stepCommand (stepSlice i) s) := by
  cases i with
  | seed => cases h
  | _ => rfl

/-- Every slice delivers a value or raises UNIT_INTERVAL. -/
theorem stepSlice_cases {i : Instr} (h : isStepCommand i = true) (v : Word48) (s : State) :
    (∃ data, stepSlice i v s = respond (.ok data) s) ∨ stepSlice i v s = raiseFault .unitInterval s := by
  cases i with
  | seed => cases h
  | rawNext | nextU32 | nextI32 => exact .inl ⟨_, rfl⟩
  | nextUniform => exact (uniformSlice_cases v s).imp (fun ⟨_, hok⟩ => ⟨_, hok⟩) (·.2)

theorem stepSlice_state {i : Instr} (h : isStepCommand i = true) (v : Word48) (s : State) :
    (stepSlice i v s).state = s.state := by
  obtain ⟨data, heq⟩ | heq := stepSlice_cases h v s <;> simp [heq]

theorem eq_seed_or_isStepCommand (i : Instr) : (∃ a, i = .seed a) ∨ isStepCommand i = true := by
  cases i with
  | seed a => exact .inl ⟨a, rfl⟩
  | _ => exact .inr rfl

/-! ### Everything one command can do -/

/-- `CommandEffect c s t`: the command `c` takes the block from `s` to `t`, one constructor per way through the dispatch of
R35. -/
inductive CommandEffect (c : Cmd) (s : State) : State → Prop
  | refused {held : Cause} (hfault : s.fault = some held) : CommandEffect c s (refuse held s)
  | illegal {e : DecodeError} (hfault : s.fault = none) (hdecode : decode c = .error e) :
      CommandEffect c s (raiseFault .illegalCommand s)
  | seed {a : Word64} (hfault : s.fault = none) (hdecode : decode c = .ok (.seed a)) :
      CommandEffect c s (seedGenerator a s)
  | unseeded {i : Instr} (hfault : s.fault = none) (hdecode : decode c = .ok i) (hi : isStepCommand i = true)
      (hstate : s.state = none) : CommandEffect c s (raiseFault .notSeeded s)
  | stepped {i : Instr} {v : Word48} (hfault : s.fault = none) (hdecode : decode c = .ok i) (hi : isStepCommand i = true)
      (hstate : s.state = some v) : CommandEffect c s (stepSlice i (muladd48 v) (writeState (muladd48 v) s))

theorem execute_effect (c : Cmd) (s : State) : ∃ t, execute c s = .next t ∧ CommandEffect c s t := by
  rcases hdecode : decode c with e | i
  · rw [execute_of_illegal hdecode]
    obtain ⟨held, hfault, heq⟩ | ⟨hfault, heq⟩ := illegalCommand_cases s
    · exact ⟨_, congrArg _ heq, .refused hfault⟩
    · exact ⟨_, congrArg _ heq, .illegal hfault hdecode⟩
  · rw [execute_of_decoded hdecode]
    obtain ⟨a, rfl⟩ | hi := eq_seed_or_isStepCommand i
    · obtain ⟨held, hfault, heq⟩ | ⟨hfault, heq⟩ := execSeed_cases a s
      · exact ⟨_, heq, .refused hfault⟩
      · exact ⟨_, heq, .seed hfault hdecode⟩
    · rw [exec_of_isStepCommand hi]
      obtain ⟨held, hfault, heq⟩ | ⟨hfault, hstate, heq⟩ | ⟨v, hfault, hstate, heq⟩ :=
        stepCommand_cases (stepSlice i) s
      · exact ⟨_, congrArg _ heq, .refused hfault⟩
      · exact ⟨_, congrArg _ heq, .unseeded hfault hdecode hi hstate⟩
      · exact ⟨_, congrArg _ heq, .stepped hfault hdecode hi hstate⟩

theorem commandEffect_of_execute {c : Cmd} {s t : State} (h : execute c s = .next t) : CommandEffect c s t := by
  obtain ⟨t', ht', heffect⟩ := execute_effect c s
  cases h.symm.trans ht'
  exact heffect

/-- Settles O27, by the five ways through the dispatch: only those of SEED and of a completed step write `state`. -/
theorem stateHasTwoWriters : Obligations.StateHasTwoWriters := by
  intro c s
  obtain ⟨t, ht, heffect⟩ := execute_effect c s
  refine ⟨t, ht, ?_⟩
  cases heffect with
  | refused | illegal | unseeded => exact .inl rfl
  | seed hfault hdecode => exact .inr (.inl ⟨_, hdecode, hfault, rfl⟩)
  | stepped hfault hdecode hi hstate =>
    exact .inr (.inr ⟨_, _, hdecode, hi, hfault, hstate, stepSlice_state hi _ _⟩)

/-! ### What a command does to the flag `seeded` and to `fault` -/

namespace CommandEffect

variable {c : Cmd} {s t : State}

theorem keeps_seeded (h : CommandEffect c s t) (hseeded : s.state ≠ none) : t.state ≠ none := by
  cases h with
  | refused | illegal | unseeded => exact hseeded
  | seed => exact Option.some_ne_none _
  | stepped _ _ hi => simp [stepSlice_state hi]

theorem seeds_only_by_seed (h : CommandEffect c s t) (hunseeded : s.state = none) (hseeded : t.state ≠ none) :
    ∃ a, decode c = .ok (.seed a) ∧ s.fault = none := by
  cases h with
  | refused | illegal | unseeded => exact absurd hunseeded hseeded
  | seed hfault hdecode => exact ⟨_, hdecode, hfault⟩
  | stepped _ _ _ hstate => cases hunseeded.symm.trans hstate

theorem keeps_fault (h : CommandEffect c s t) (hheld : s.fault ≠ none) : t.fault = s.fault := by
  cases h with
  | refused => rfl
  | illegal hfault | seed hfault | unseeded hfault | stepped hfault => exact absurd hfault hheld

theorem reports_fault (h : CommandEffect c s t) (hfault : t.fault ≠ none) : t.response = t.fault.map .fault := by
  cases h with
  | refused hheld => simp [hheld]
  | illegal | unseeded => rfl
  | seed hclear => exact absurd hclear hfault
  | @stepped i v hclear _ hi =>
    obtain ⟨data, heq⟩ | heq := stepSlice_cases hi (muladd48 v) (writeState (muladd48 v) s)
    · rw [heq] at hfault
      exact absurd hclear hfault
    · simp [heq]

end CommandEffect

/-! ### Everything one step can do -/

/-- The host asserts reset next, between commands or during one (R70). -/
def ResetPresented (s : State) : Prop :=
  ∃ rest c, s.inputs = .reset :: rest ∨ s.inputs = .resetDuring c :: rest

theorem step_cases {s t : State} (h : step s = .next t) :
    (s.inputs = [] ∧ t = idle s) ∨
    (∃ rest c, s.inputs = .command c :: rest ∧ CommandEffect c { s with inputs := rest } t) ∨
    (ResetPresented s ∧ t = assertReset { s with inputs := s.inputs.tail }) := by
  rcases hinputs : s.inputs with _ | ⟨c | _ | c, rest⟩
  · rw [step_of_idle hinputs] at h
    cases h
    exact .inl ⟨rfl, rfl⟩
  · rw [step_of_command hinputs] at h
    exact .inr (.inl ⟨rest, c, rfl, commandEffect_of_execute h⟩)
  · rw [step_of_reset hinputs] at h
    cases h
    exact .inr (.inr ⟨⟨rest, 0, .inl hinputs⟩, rfl⟩)
  · rw [step_of_resetDuring hinputs] at h
    cases h
    exact .inr (.inr ⟨⟨rest, c, .inr hinputs⟩, rfl⟩)

/-- Settles O49, by the three kinds of step: an idle one keeps the registers, a command seeds, keeps and reports as above, and
reset alone clears. -/
theorem onlyResetUndoesSeedAndFault : Obligations.OnlyResetUndoesSeedAndFault := by
  intro s t h
  obtain ⟨-, rfl⟩ | ⟨rest, c, hinputs, heffect⟩ | ⟨hreset, rfl⟩ := step_cases h
  · exact ⟨fun hs ht => absurd ht hs, fun hs ht => absurd hs ht, fun _ ht => absurd rfl ht, fun hs ht => absurd hs ht⟩
  · refine ⟨fun hs ht => absurd ht (heffect.keeps_seeded hs), fun hs ht => ?_,
      fun hs ht => absurd (heffect.keeps_fault hs) ht, fun _ ht => ⟨rest, c, hinputs, heffect.reports_fault ht⟩⟩
    obtain ⟨a, hdecode, hfault⟩ := heffect.seeds_only_by_seed hs ht
    exact ⟨rest, c, a, hinputs, hdecode, hfault⟩
  · exact ⟨fun _ _ => hreset, fun _ ht => absurd rfl ht, fun _ _ => ⟨rfl, hreset⟩, fun _ ht => absurd rfl ht⟩

/-! ### Reset and the status outputs -/

/-- Settles O12: the fields of the reset state, and the outputs that follow them. -/
theorem resetValuesOfTheRegisters : Obligations.ResetValuesOfTheRegisters :=
  ⟨rfl, rfl, rfl, rfl⟩

/-- A block that records no fault and gives no response has nothing to explain. -/
theorem consistent_of_noFault_of_noResponse {s : State} (hfault : s.fault = none) (hresponse : s.response = none) :
    s.consistent = true := by
  simp [State.consistent, State.faultExplained, State.responseAgrees, State.responseFromState, hfault, hresponse]

/-- Settles O51: at reset there is neither a fault nor a response. -/
theorem resetIsConsistent : Obligations.ResetIsConsistent :=
  consistent_of_noFault_of_noResponse rfl rfl

theorem status_toNat (s : State) : s.status.toNat = s.faultO.toNat * 2 + s.seededO.toNat := by
  rw [State.status, BitVec.toNat_append, Nat.shiftLeft_eq, Nat.mul_comm, ← Nat.two_pow_add_eq_or_of_lt s.seededO.isLt,
    pow_one]

theorem seededO_eq_one_iff (s : State) : s.seededO = 1 ↔ ∃ v, s.state = some v := by
  rw [State.seededO, ← Option.isSome_iff_exists]
  cases s.state.isSome <;> decide

/-- The table of R13, code by code. -/
theorem faultCode_eq_iff (f : Option Cause) :
    (faultCode f = 0 ↔ f = none) ∧ (faultCode f = 1 ↔ f = some .notSeeded) ∧
    (faultCode f = 2 ↔ f = some .illegalCommand) ∧ (faultCode f = 3 ↔ f = some .unitInterval) := by
  rcases f with _ | _ | _ | _ <;> decide

/-- Settles O15: the number of the status vector, the flag, and the table of codes. -/
theorem statusOutputsFollowTheRegisters : Obligations.StatusOutputsFollowTheRegisters :=
  ⟨status_toNat, seededO_eq_one_iff, fun s => faultCode_eq_iff s.fault⟩

end Sys2Proof.Machine
end

section
/-! PROOFS. The port (spec/20_memory.md R21, R24): a step takes one input of the host and always answers, and it gives one
response for a command, with the code in `fault` as its status (spec/30_encoding.md R36), and none otherwise. -/

namespace Sys2Proof.Machine

/-! ### The command at the port is the one executed -/

theorem decode_encode (i : Instr) : decode (encode i) = .ok i := by
  have hop : opField (encode i) = opcodeOf i := opField_packCommand _ _
  cases i with
  | seed arg =>
    have harg : argField (encode (.seed arg)) = arg := argField_packCommand _ _
    rw [decode_of_opcode_seed hop, harg]
  | rawNext => exact decode_of_opcode_rawNext hop
  | nextU32 => exact decode_of_opcode_nextU32 hop
  | nextI32 => exact decode_of_opcode_nextI32 hop
  | nextUniform => exact decode_of_opcode_nextUniform hop

/-- The opcode table numbers a command as the port does (R22). -/
theorem commandOfTableWord_toNat (c : Cmd) : commandOfTableWord 72 c.toNat = c := by
  rw [commandOfTableWord, Nat.mod_eq_of_lt c.isLt, BitVec.ofNat_toNat, BitVec.setWidth_eq]

theorem step_presentNext (c : Cmd) (s : State) : step (presentNext c s) = execute c s :=
  step_of_command (presentNext_inputs c s)

/-- Settles O10: the port hands the head of `inputs` to `execute`, which follows the decoder; the word of an instruction decodes
to it. -/
theorem stepExecutesThePresentedCommand : Obligations.StepExecutesThePresentedCommand := by
  refine ⟨fun s c i rest hinputs hdecode => ?legal, fun s c e rest hinputs hdecode => ?illegal, fun s i => ?placed⟩
  case legal => rw [step_of_command hinputs, execute_of_decoded hdecode]
  case illegal => rw [step_of_command hinputs, execute_of_illegal hdecode]
  case placed =>
    rw [State.withFetchWord, commandOfTableWord_toNat, step_presentNext, execute_of_decoded (decode_encode i)]

/-! ### A command leaves the host's inputs and gives one response -/

theorem stepSlice_inputs {i : Instr} (h : isStepCommand i = true) (v : Word48) (s : State) :
    (stepSlice i v s).inputs = s.inputs := by
  obtain ⟨data, heq⟩ | heq := stepSlice_cases h v s <;> simp [heq]

theorem faultO_of_fault_eq_none {s : State} (h : s.fault = none) : s.faultO = 0 := congrArg faultCode h

theorem faultO_of_fault_eq_some {s : State} {cause : Cause} (h : s.fault = some cause) : s.faultO = causeCode cause :=
  congrArg faultCode h

namespace CommandEffect

variable {c : Cmd} {s t : State}

theorem keeps_inputs (h : CommandEffect c s t) : t.inputs = s.inputs := by
  cases h with
  | refused | illegal | seed | unseeded => rfl
  | stepped _ _ hi => exact stepSlice_inputs hi _ _

/-- A refusal reports the code held, a raise the code it records, a completed command the code 0 of a block without a fault. -/
theorem responds (h : CommandEffect c s t) : ∃ r, t.response = some r ∧ r.statusField = t.faultO := by
  cases h with
  | @refused held hfault => exact ⟨.fault held, rfl, (faultO_of_fault_eq_some hfault).symm⟩
  | illegal => exact ⟨.fault .illegalCommand, rfl, rfl⟩
  | seed hfault => exact ⟨.done, rfl, (faultO_of_fault_eq_none hfault).symm⟩
  | unseeded => exact ⟨.fault .notSeeded, rfl, rfl⟩
  | @stepped i v hfault _ hi =>
    obtain ⟨data, heq⟩ | heq := stepSlice_cases hi (muladd48 v) (writeState (muladd48 v) s)
    · rw [heq]
      exact ⟨.ok data, rfl, (faultO_of_fault_eq_none hfault).symm⟩
    · rw [heq]
      exact ⟨.fault .unitInterval, rfl, rfl⟩

end CommandEffect

/-! ### Every step answers a next state and takes one input -/

theorem exists_step_eq_next (s : State) : ∃ t, step s = .next t := by
  rcases hinputs : s.inputs with _ | ⟨c | _ | c, rest⟩
  · exact ⟨_, step_of_idle hinputs⟩
  · obtain ⟨t, ht, -⟩ := execute_effect c { s with inputs := rest }
    exact ⟨t, (step_of_command hinputs).trans ht⟩
  · exact ⟨_, step_of_reset hinputs⟩
  · exact ⟨_, step_of_resetDuring hinputs⟩

theorem inputs_of_step {s t : State} (h : step s = .next t) : t.inputs = s.inputs.tail := by
  obtain ⟨hinputs, rfl⟩ | ⟨rest, c, hinputs, heffect⟩ | ⟨-, rfl⟩ := step_cases h
  · rw [idle_inputs, hinputs, List.tail_nil]
  · rw [heffect.keeps_inputs, hinputs, List.tail_cons]
  · rfl

/-- Settles O11: a command has an effect, which responds; an idle block and a reset give no response. -/
theorem oneResponsePerCommand : Obligations.OneResponsePerCommand := by
  refine ⟨fun s c rest hinputs => ?command, fun s hnone => ?none⟩
  case command =>
    obtain ⟨t, ht, heffect⟩ := execute_effect c { s with inputs := rest }
    obtain ⟨r, hr, hstatus⟩ := heffect.responds
    exact ⟨t, r, (step_of_command hinputs).trans ht, heffect.keeps_inputs, hr, hstatus⟩
  case none =>
    obtain ⟨t, ht⟩ := exists_step_eq_next s
    refine ⟨t, ht, ?_, inputs_of_step ht⟩
    obtain ⟨-, rfl⟩ | ⟨rest, c, hinputs, -⟩ | ⟨-, rfl⟩ := step_cases ht
    · exact idle_response s
    · exact absurd hinputs (hnone c rest)
    · exact assertReset_response _

/-! ### Any number of steps -/

@[simp] theorem runSteps_zero (s : State) : runSteps 0 s = .next s := rfl

theorem run_succ_of_step {M : Host.Core} {s t : M.State} (h : M.step s = .next t) (n : Nat) :
    M.run (n + 1) s = M.run n t := by
  simp only [Host.Core.run, h]

theorem runSteps_succ_of_step {s t : State} (h : step s = .next t) (n : Nat) : runSteps (n + 1) s = runSteps n t :=
  run_succ_of_step (M := core) h n

/-- Settles O48, by induction on the number of steps: each answers a next state without its head of the inputs. -/
theorem noStepStopsTheMachine : Obligations.NoStepStopsTheMachine := by
  intro n
  induction n with
  | zero => exact fun s => ⟨s, runSteps_zero s, rfl⟩
  | succ n ih =>
    intro s
    obtain ⟨t, ht⟩ := exists_step_eq_next s
    obtain ⟨u, hu, hinputs⟩ := ih t
    exact ⟨u, (runSteps_succ_of_step ht n).trans hu, by rw [hinputs, inputs_of_step ht, List.drop_tail]⟩

end Sys2Proof.Machine
end

section
/-! PROOFS. The command format (spec/30_encoding.md R30 to R35): the two fields of a command, the decoder as the rows of the
opcode map, the illegal opcodes, and the order of the checks. -/

namespace Sys2Proof.Machine

/-! ### A command and its two fields -/

theorem packCommand_opField_argField (c : Cmd) : packCommand (opField c) (argField c) = c := by
  apply BitVec.eq_of_toNat_eq
  simp only [packCommand_toNat, opField, argField, BitVec.extractLsb'_toNat, Nat.shiftRight_eq_div_pow]
  omega

/-- Settles O1: packing and the two fields are inverse. -/
theorem commandIsOpcodeThenOperand : Obligations.CommandIsOpcodeThenOperand :=
  ⟨fun op arg => ⟨opField_packCommand op arg, argField_packCommand op arg, packCommand_toNat op arg⟩,
    packCommand_opField_argField⟩

theorem argField_eq_setWidth (c : Cmd) : argField c = c.setWidth 64 :=
  (BitVec.setWidth_eq_extractLsb' (by decide)).symm

/-- The mask of the opcode map keeps the opcode and clears the operand. -/
theorem and_opcodeMask (c : Cmd) : c &&& 0xFF0000000000000000 = packCommand (opField c) 0 := by
  have hmask : (0xFF0000000000000000 : Cmd) = BitVec.allOnes 8 ++ (0 : Word64) := rfl
  conv_lhs => rw [← packCommand_opField_argField c, hmask, packCommand, BitVec.and_append]
  rw [BitVec.and_allOnes, show argField c &&& 0 = 0 from BitVec.and_zero, packCommand]

theorem and_opcodeMask_eq_iff (c : Cmd) (op : Opcode) :
    c &&& 0xFF0000000000000000 = packCommand op 0 ↔ opField c = op := by
  rw [and_opcodeMask]
  exact ⟨fun h => by simpa only [opField_packCommand] using congrArg opField h, fun h => by rw [h]⟩

/-! ### The decoder as the rows of the opcode map -/

theorem opField_encode (i : Instr) : opField (encode i) = opcodeOf i := opField_packCommand _ _

theorem legalOpcode_eq_false_iff (op : Opcode) : legalOpcode op = false ↔ (op.toNat = 0 ∨ 6 ≤ op.toNat) := by
  simp [legalOpcode, BitVec.le_def]
  omega

theorem legalOpcode_iff_mem (op : Opcode) : legalOpcode op = true ↔ op ∈ [0x01, 0x02, 0x03, 0x04, 0x05] := by
  revert op
  decide

theorem opcodeOf_mem (i : Instr) : opcodeOf i ∈ [0x01, 0x02, 0x03, 0x04, 0x05] := by
  cases i <;> simp [opcodeOf]

/-- Everything the decoder can answer: the instruction of a legal opcode, with SEED's operand, or the illegal opcode by name. -/
theorem decode_cases (c : Cmd) :
    (∃ i, decode c = .ok i ∧ opField c = opcodeOf i ∧ ∀ a, i = .seed a → argField c = a) ∨
    (decode c = .error (.illegalCommand (opField c)) ∧ opField c ∉ [0x01, 0x02, 0x03, 0x04, 0x05]) := by
  by_cases h1 : opField c = 0x01
  · exact .inl ⟨_, decode_of_opcode_seed h1, h1, fun _ h => Instr.seed.inj h⟩
  by_cases h2 : opField c = 0x02
  · exact .inl ⟨_, decode_of_opcode_rawNext h2, h2, nofun⟩
  by_cases h3 : opField c = 0x03
  · exact .inl ⟨_, decode_of_opcode_nextU32 h3, h3, nofun⟩
  by_cases h4 : opField c = 0x04
  · exact .inl ⟨_, decode_of_opcode_nextI32 h4, h4, nofun⟩
  by_cases h5 : opField c = 0x05
  · exact .inl ⟨_, decode_of_opcode_nextUniform h5, h5, nofun⟩
  exact .inr ⟨decode_of_other_opcode h1 h2 h3 h4 h5,
    by simp only [List.mem_cons, List.not_mem_nil, h1, h2, h3, h4, h5, or_self, not_false_iff]⟩

theorem decode_of_opcodeOf {c : Cmd} {i : Instr} (hop : opField c = opcodeOf i) (harg : ∀ a, i = .seed a → argField c = a) :
    decode c = .ok i := by
  cases i with
  | seed a => rw [decode_of_opcode_seed hop, harg a rfl]
  | rawNext => exact decode_of_opcode_rawNext hop
  | nextU32 => exact decode_of_opcode_nextU32 hop
  | nextI32 => exact decode_of_opcode_nextI32 hop
  | nextUniform => exact decode_of_opcode_nextUniform hop

theorem decode_eq_ok_iff (c : Cmd) (i : Instr) :
    decode c = .ok i ↔ (opField c = opcodeOf i ∧ ∀ a, i = .seed a → argField c = a) := by
  refine ⟨fun h => ?_, fun ⟨hop, harg⟩ => decode_of_opcodeOf hop harg⟩
  obtain ⟨j, hj, hfields⟩ | ⟨herr, -⟩ := decode_cases c
  · cases h.symm.trans hj
    exact hfields
  · cases h.symm.trans herr

/-- Settles O3: an instruction's words are those with its opcode and, for SEED, its operand, and its encoding is one of them. -/
theorem decodeInvertsEncode : Obligations.DecodeInvertsEncode :=
  fun i => ⟨decode_encode i, fun c => opField_encode i ▸ decode_eq_ok_iff c i⟩

theorem decode_eq_seed_iff (c : Cmd) (a : Word64) : decode c = .ok (.seed a) ↔ (opField c = 0x01 ∧ argField c = a) := by
  rw [decode_eq_ok_iff]
  exact and_congr_right fun _ => ⟨fun h => h a rfl, fun h _ ha => h.trans (Instr.seed.inj ha)⟩

/-- The row of a step command: its `match` is its encoding, and the mask covers the opcode only. -/
theorem decode_eq_step_iff {i : Instr} (hi : isStepCommand i = true) (c : Cmd) :
    decode c = .ok i ↔ c &&& 0xFF0000000000000000 = packCommand (opcodeOf i) 0 := by
  rw [and_opcodeMask_eq_iff, decode_eq_ok_iff]
  refine and_iff_left ?_
  rintro a rfl
  cases hi

/-- Settles O2: SEED's row leaves its operand free, and a step command has no operand. -/
theorem decoderFollowsMatchAndMask : Obligations.DecoderFollowsMatchAndMask := by
  refine fun c => ⟨?seedRow, fun a h => ?seedOperand, decode_eq_step_iff rfl c, decode_eq_step_iff rfl c,
    decode_eq_step_iff rfl c, decode_eq_step_iff rfl c⟩
  case seedRow =>
    simp only [decode_eq_seed_iff, exists_and_left, exists_eq', and_true]
    exact (and_opcodeMask_eq_iff c 0x01).symm
  case seedOperand =>
    rw [← argField_eq_setWidth]
    exact ((decode_eq_seed_iff c a).mp h).2.symm

/-- Settles O4: each word, by evaluation of the decoder. -/
theorem writtenWordsDecode : Obligations.WrittenWordsDecode := by
  unfold Obligations.WrittenWordsDecode
  decide

/-! ### The illegal opcodes -/

theorem decode_eq_error_iff (c : Cmd) : (∃ e, decode c = .error e) ↔ legalOpcode (opField c) = false := by
  obtain ⟨i, hdecode, hop, -⟩ | ⟨hdecode, hop⟩ := decode_cases c
  · simp [hdecode, hop, (legalOpcode_iff_mem _).mpr (opcodeOf_mem i)]
  · simpa [hdecode] using mt (legalOpcode_iff_mem _).mp hop

theorem execute_of_illegalOpcode {c : Cmd} {s : State} (hop : legalOpcode (opField c) = false) (hfault : s.fault = none) :
    execute c s = .next (raiseFault .illegalCommand s) := by
  obtain ⟨e, hdecode⟩ := (decode_eq_error_iff c).mpr hop
  rw [execute_of_illegal hdecode, illegalCommand, unlessFaulted_of_clear hfault]

/-- Settles O5: the decoder refuses exactly the opcodes that are not legal, and the dispatch raises ILLEGAL_COMMAND on them. -/
theorem illegalOpcodesRaise : Obligations.IllegalOpcodesRaise := by
  refine ⟨fun c => ?refused, by decide +kernel, legalOpcode_eq_false_iff, fun c s hop hfault => ?raised⟩
  case refused => rw [decode_eq_error_iff, legalOpcode_eq_false_iff]
  case raised => exact execute_of_illegalOpcode ((legalOpcode_eq_false_iff _).mpr hop) hfault

/-! ### The operand -/

theorem scramble_congr {arg arg' : Word64} (h : arg.toNat % 2 ^ 32 = arg'.toNat % 2 ^ 32) : scramble arg = scramble arg' := by
  have hlow : arg.extractLsb' 0 32 = arg'.extractLsb' 0 32 :=
    BitVec.eq_of_toNat_eq (by simpa [BitVec.extractLsb'_toNat] using h)
  rw [scramble, scramble, hlow]

theorem execSeed_congr {arg arg' : Word64} (h : scramble arg = scramble arg') (s : State) :
    execSeed arg s = execSeed arg' s := by
  have hgen : seedGenerator arg = seedGenerator arg' := funext fun t => by rw [seedGenerator, seedGenerator, h]
  rw [execSeed, execSeed, hgen]

theorem decode_packCommand_seed (arg : Word64) : decode (packCommand 0x01 arg) = .ok (.seed arg) :=
  decode_encode (.seed arg)

/-- The decoder reads the operand of SEED only. -/
theorem decode_congr_of_ne_seed {c c' : Cmd} (hop : opField c = opField c') (hne : opField c ≠ 0x01) :
    decode c = decode c' := by
  rw [decode, decode, ← hop, if_neg hne, if_neg hne]

/-- Settles O6: the decoder hands over SEED's operand, of which `scramble` reads the low half, and no other operand. -/
theorem operandIsOnlySeedsLowHalf : Obligations.OperandIsOnlySeedsLowHalf := by
  refine ⟨decode_packCommand_seed, fun arg arg' s h => ?seed, fun op arg arg' s hne => ?other⟩
  case seed =>
    rw [execute_of_decoded (decode_packCommand_seed arg), execute_of_decoded (decode_packCommand_seed arg')]
    exact execSeed_congr (scramble_congr h) s
  case other =>
    have hdecode : decode (packCommand op arg) = decode (packCommand op arg') :=
      decode_congr_of_ne_seed (by simp only [opField_packCommand]) (by rwa [opField_packCommand])
    rw [execute, execute, hdecode]

/-! ### The order of the checks -/

theorem execute_of_faulted {s : State} {held : Cause} (hfault : s.fault = some held) (c : Cmd) :
    execute c s = .next (refuse held s) := by
  obtain ⟨t, ht, heffect⟩ := execute_effect c s
  cases heffect with
  | refused hfault' => rw [ht, Option.some.inj (hfault.symm.trans hfault')]
  | illegal hclear | seed hclear | unseeded hclear | stepped hclear => cases hfault.symm.trans hclear

theorem exec_of_unseeded {i : Instr} {s : State} (hi : isStepCommand i = true) (hfault : s.fault = none)
    (hstate : s.state = none) : exec i s = .next (raiseFault .notSeeded s) := by
  rw [exec_of_isStepCommand hi, stepCommand, unlessFaulted_of_clear hfault, whenSeeded_of_unseeded hstate]

theorem seededO_eq_zero_iff (s : State) : s.seededO = 0 ↔ s.state = none := by
  rw [State.seededO]
  cases s.state <;> simp

/-- Settles O7: a fault held comes before the opcode; an illegal opcode and SEED leave the dispatch before the flag `seeded` is
looked at; a step command meets it first. -/
theorem dispatchChecksInOrder : Obligations.DispatchChecksInOrder := by
  intro c s
  rcases hfault : s.fault with _ | held
  case some => rw [execute_of_faulted hfault, refuse, respond, hfault]
  obtain ⟨i, hdecode, hop, harg⟩ | ⟨hdecode, hop⟩ := decode_cases c
  case inr =>
    rw [execute_of_illegal hdecode, illegalCommand, unlessFaulted_of_clear hfault]
    exact (if_pos hop).symm
  rw [execute_of_decoded hdecode, hop]
  simp only [opcodeOf_mem, not_true, if_false]
  cases i with
  | seed a => rw [harg a rfl]; rfl
  | _ =>
    by_cases hseeded : s.seededO = 0
    · rw [exec_of_unseeded rfl hfault ((seededO_eq_zero_iff s).mp hseeded), if_neg (by decide), if_pos hseeded]; rfl
    · rw [if_neg (by decide), if_neg hseeded]; rfl

end Sys2Proof.Machine
end

section
/-! PROOFS. The response format: the wire image of each shape, and how each result stands in `data` (spec/30_encoding.md R36,
spec/93_implementation_defined.md U4). -/

namespace Sys2Proof.Machine

theorem wire_toNat (r : Response) : r.wire.toNat = r.statusField.toNat * 2 ^ 64 + r.dataField.toNat := by
  rw [Response.wire, BitVec.toNat_append, Nat.shiftLeft_eq, Nat.mul_comm, ← Nat.two_pow_add_eq_or_of_lt r.dataField.isLt]

theorem wire_toNat_lt_iff (r : Response) : r.wire.toNat < 2 ^ 64 ↔ r.statusField = 0 := by
  have hdata := r.dataField.isLt
  rw [wire_toNat, ← BitVec.toNat_inj, show (0 : BitVec 2).toNat = 0 from rfl]
  omega

theorem causeCode_ne_zero (c : Cause) : causeCode c ≠ 0 := by
  cases c <;> decide

theorem statusField_eq_zero_iff (r : Response) : r.statusField = 0 ↔ ∀ c, r ≠ .fault c := by
  cases r with
  | done | ok => exact ⟨fun _ => nofun, fun _ => rfl⟩
  | fault c => exact ⟨fun h => absurd h (causeCode_ne_zero c), fun h => absurd rfl (h c)⟩

theorem value_isSome_iff (r : Response) : r.value.isSome ↔ ∃ d, r = .ok d := by
  cases r <;> simp [Response.value]

theorem signedData_extractLow (u : Word32) : (signedData u).extractLsb' 0 32 = u := by
  ext i hi
  rw [BitVec.getElem_extractLsb', Nat.zero_add, signedData, BitVec.getLsbD_eq_getElem (by omega), BitVec.getElem_signExtend,
    dif_pos hi]

/-- Settles O8: the wire image is status and data side by side, and each placement extends its result to 64 bits. -/
theorem responseWireImage : Obligations.ResponseWireImage := by
  refine ⟨rfl, fun d => ?ok, fun c => ?fault, fun r => ⟨?status, value_isSome_iff r⟩, fun v => ?raw, fun u => ⟨?_, ?_, ?_, ?_⟩⟩
  case ok => simp [wire_toNat, Response.statusField, Response.dataField]
  case fault => simp [wire_toNat, Response.statusField, Response.dataField, faultCode]
  case status => rw [wire_toNat_lt_iff, statusField_eq_zero_iff]
  case raw => exact BitVec.toNat_setWidth_of_le (by decide)
  · exact BitVec.toNat_setWidth_of_le (by decide)
  · exact BitVec.toNat_setWidth_of_le (by decide)
  · exact BitVec.toInt_signExtend_of_le (by decide)
  · exact signedData_extractLow u

end Sys2Proof.Machine
end

section
/-! PROOFS. One line of the assembler text (spec/30_encoding.md R37): the command of a line once read, the numerals the text may
write for a number, the words of a line, and the lines that read as each command. -/

namespace Sys2Proof.Machine

/-! ### The command of a line once read -/

theorem assembleLine_seed {n : Nat} (h : n < 2 ^ 64) : assembleLine (.seed n) = .ok (encode (.seed (BitVec.ofNat 64 n))) :=
  if_pos (decide_eq_true h)

theorem assembleLine_op {n : Nat} (h : n < 2 ^ 8) : assembleLine (.op n) = .ok (packCommand (BitVec.ofNat 8 n) 0) :=
  if_pos (decide_eq_true h)

theorem assembleLine_of_not_wellFormed {l : AsmLine} (h : l.wellFormed = false) :
    assembleLine l = .error .literalTooWide := by
  rw [assembleLine.eq_def, h]
  rfl

/-- Settles O9: a literal that fits is the operand or the opcode of the command, and no other is well formed. -/
theorem assembledLinesAreTheirCommands : Obligations.AssembledLinesAreTheirCommands := by
  refine ⟨fun n h => ?seed, fun n h => ?wideSeed, rfl, rfl, rfl, rfl, fun n h => ?op, fun n h => ?wideOp⟩
  case seed => exact ⟨_, assembleLine_seed h, decode_encode _⟩
  case wideSeed => exact assembleLine_of_not_wellFormed (decide_eq_false (Nat.not_lt.mpr h))
  case op =>
    refine ⟨_, assembleLine_op h, ?_, argField_packCommand _ _⟩
    rw [opField_packCommand, BitVec.toNat_ofNat, Nat.mod_eq_of_lt h]
  case wideOp => exact assembleLine_of_not_wellFormed (decide_eq_false (Nat.not_lt.mpr h))

/-! ### Digits -/

/-- A digit by its character code: a decimal one, or a hexadecimal one of either case. -/
theorem digitValue_eq_some_iff (c : Char) (d : Nat) :
    digitValue c = some d ↔ (d < 10 ∧ c.toNat = 48 + d) ∨ (10 ≤ d ∧ d < 16 ∧ (c.toNat = 87 + d ∨ c.toNat = 55 + d)) := by
  have hle (a b : Char) : a ≤ b ↔ a.toNat ≤ b.toNat := Iff.rfl
  have hcodes : '0'.toNat = 48 ∧ '9'.toNat = 57 ∧ 'A'.toNat = 65 ∧ 'F'.toNat = 70 ∧ 'a'.toNat = 97 ∧ 'f'.toNat = 102 := by
    decide
  obtain ⟨h0, h9, hA, hF, ha, hf⟩ := hcodes
  simp only [digitValue, hle, h0, h9, hA, hF, ha, hf]
  split_ifs <;> simp only [Option.some.injEq, false_iff] <;> omega

theorem digitChar_toNat_of_lt_sixteen : ∀ d < 16,
    d.digitChar.toNat = (if d < 10 then 48 else 87) + d ∧
    d.digitChar.toUpper.toNat = (if d < 10 then 48 else 55) + d := by
  decide

theorem eq_digitChar_iff_of_lt_ten {d : Nat} (hd : d < 10) (c : Char) : c = d.digitChar ↔ digitValue c = some d := by
  have hlower := (digitChar_toNat_of_lt_sixteen d (by omega)).1
  rw [digitValue_eq_some_iff, ← Char.toNat_inj, hlower, if_pos hd]
  omega

theorem eq_digitChar_or_toUpper_iff_of_lt_sixteen {d : Nat} (hd : d < 16) (c : Char) :
    (c = d.digitChar ∨ c = d.digitChar.toUpper) ↔ digitValue c = some d := by
  obtain ⟨hlower, hupper⟩ := digitChar_toNat_of_lt_sixteen d hd
  rw [digitValue_eq_some_iff, ← Char.toNat_inj, ← Char.toNat_inj, hlower, hupper]
  split_ifs <;> omega

theorem pushDigit_eq_some_iff (base : Nat) (acc : Option Nat) (c : Char) (n : Nat) :
    pushDigit base acc c = some n ↔ ∃ m d, acc = some m ∧ digitValue c = some d ∧ d < base ∧ n = m * base + d := by
  rcases acc with _ | m
  · simp [pushDigit]
  rcases hd : digitValue c with _ | d
  · simp [pushDigit, hd]
  · by_cases hlt : d < base <;> simp [pushDigit, hd, hlt, eq_comm]

/-- The number `m`, then the digits `cs`. -/
def pushDigits (base : Nat) (m : Nat) (cs : List Char) : Option Nat := cs.foldl (pushDigit base) (some m)

theorem pushDigits_concat_eq_some_iff (base m : Nat) (cs : List Char) (c : Char) (n : Nat) :
    pushDigits base m (cs ++ [c]) = some n ↔
      ∃ k d, pushDigits base m cs = some k ∧ digitValue c = some d ∧ d < base ∧ n = k * base + d := by
  rw [pushDigits, List.foldl_append]
  exact pushDigit_eq_some_iff base _ c n

theorem digitValue_ne_none_of_pushDigits {base m n : Nat} {cs : List Char} (h : pushDigits base m cs = some n) :
    ∀ c ∈ cs, digitValue c ≠ none := by
  induction cs using List.reverseRecOn generalizing n with
  | nil => exact nofun
  | append_singleton cs c ih =>
    obtain ⟨k, d, hk, hd, -⟩ := (pushDigits_concat_eq_some_iff ..).mp h
    simpa [or_imp, forall_and, hd] using ih hk

theorem parseNumber_eq_some_iff (base : Nat) (cs : List Char) (n : Nat) :
    parseNumber base cs = some n ↔ (cs.filter (· ≠ '_') ≠ [] ∧ pushDigits base 0 (cs.filter (· ≠ '_')) = some n) := by
  rw [parseNumber, pushDigits]
  split
  next h => simp only [h, ne_eq, not_true, false_and, reduceCtorEq]
  next h => exact (and_iff_right h).symm

theorem ne_nil_of_parseNumber {base n : Nat} {cs : List Char} (h : parseNumber base cs = some n) : cs ≠ [] := by
  rintro rfl
  cases h

theorem digit_or_underscore_of_parseNumber {base n : Nat} {cs : List Char} (h : parseNumber base cs = some n) :
    ∀ c ∈ cs, c = '_' ∨ digitValue c ≠ none := fun c hc =>
  or_iff_not_imp_left.mpr fun hne =>
    digitValue_ne_none_of_pushDigits ((parseNumber_eq_some_iff ..).mp h).2 c
      (List.mem_filter.mpr ⟨hc, decide_eq_true hne⟩)

/-! ### The numerals of a number -/

theorem forall₂_concat_right {α β : Type} {R : α → β → Prop} {xs : List α} {ys : List β} {y : β}
    (h : List.Forall₂ R xs (ys ++ [y])) : ∃ init x, xs = init ++ [x] ∧ List.Forall₂ R init ys ∧ R x y := by
  rw [← List.forall₂_reverse_iff, List.reverse_append, List.reverse_singleton, List.singleton_append] at h
  obtain ⟨x, init, hx, hinit, heq⟩ := List.forall₂_cons_right_iff.mp h
  refine ⟨init.reverse, x, ?_, List.forall₂_reverse_iff.mp (by rwa [List.reverse_reverse]), hx⟩
  rw [← List.reverse_cons, ← heq, List.reverse_reverse]

section Numerals

-- `R c digit`: the character `c` may be written for the digit `digit`.
variable {base : Nat} {R : Char → Char → Prop} (hbase : 1 < base)
  (hR : ∀ d < base, ∀ c, R c d.digitChar ↔ digitValue c = some d)

include hbase hR

/-- Digits that make a number are its numeral after some leading zeros, by induction on the digits from the last. -/
theorem numeral_of_pushDigits {cs : List Char} (hne : cs ≠ []) {n : Nat} (h : pushDigits base 0 cs = some n) :
    ∃ zeros, List.Forall₂ R cs (List.replicate zeros '0' ++ Nat.toDigits base n) := by
  induction cs using List.reverseRecOn generalizing n with
  | nil => exact absurd rfl hne
  | append_singleton cs c ih =>
    obtain ⟨k, d, hk, hd, hlt, rfl⟩ := (pushDigits_concat_eq_some_iff ..).mp h
    have hc : List.Forall₂ R [c] (Nat.toDigits base d) := by
      rw [Nat.toDigits_of_lt_base hlt]
      exact .cons ((hR d hlt c).mpr hd) .nil
    rcases eq_or_ne cs [] with rfl | hcs
    · cases hk
      exact ⟨0, by simpa using hc⟩
    obtain ⟨zeros, hzeros⟩ := ih hcs hk
    rcases Nat.eq_zero_or_pos k with rfl | hpos
    · refine ⟨zeros + 1, ?_⟩
      rw [Nat.toDigits_zero, ← List.replicate_succ'] at hzeros
      simpa using List.rel_append hzeros hc
    · refine ⟨zeros, ?_⟩
      rw [Nat.mul_comm, ← Nat.toDigits_append_toDigits hbase hpos hlt, ← List.append_assoc]
      exact List.rel_append hzeros hc

/-- The digits of a number make it, by induction on the number as `Nat.toDigits` divides it by the base. -/
theorem pushDigits_of_toDigits {n : Nat} {cs : List Char} (h : List.Forall₂ R cs (Nat.toDigits base n)) :
    pushDigits base 0 cs = some n := by
  induction n using Nat.strongRecOn generalizing cs with
  | ind n ih =>
    rcases Nat.lt_or_ge n base with hlt | hge
    · rw [Nat.toDigits_of_lt_base hlt, ← List.nil_append [_]] at h
      obtain ⟨init, c, rfl, hinit, hc⟩ := forall₂_concat_right h
      cases hinit
      exact (pushDigits_concat_eq_some_iff ..).mpr ⟨0, n, rfl, (hR n hlt c).mp hc, hlt, by omega⟩
    · rw [Nat.toDigits_of_base_le hbase hge] at h
      obtain ⟨init, c, rfl, hinit, hc⟩ := forall₂_concat_right h
      have hlt : n % base < base := Nat.mod_lt n (by omega)
      exact (pushDigits_concat_eq_some_iff ..).mpr ⟨n / base, n % base, ih _ (Nat.div_lt_self (by omega) hbase) hinit,
        (hR _ hlt c).mp hc, hlt, (Nat.div_add_mod' n base).symm⟩

theorem pushDigits_of_numeral {zeros n : Nat} {cs : List Char}
    (h : List.Forall₂ R cs (List.replicate zeros '0' ++ Nat.toDigits base n)) : pushDigits base 0 cs = some n := by
  induction zeros generalizing cs with
  | zero => exact pushDigits_of_toDigits hbase hR h
  | succ zeros ih =>
    cases h with
    | @cons c _ cs _ hc hcs =>
      have hpush : pushDigit base (some 0) c = some 0 :=
        (pushDigit_eq_some_iff ..).mpr ⟨0, 0, rfl, (hR 0 (by omega) c).mp hc, by omega, by omega⟩
      rw [pushDigits, List.foldl_cons, hpush]
      exact ih hcs

/-- A number is read from its numerals and from nothing else. -/
theorem parseNumber_eq_some_iff_numeral (cs : List Char) (n : Nat) :
    parseNumber base cs = some n ↔
      ∃ zeros, List.Forall₂ R (cs.filter (· ≠ '_')) (List.replicate zeros '0' ++ Nat.toDigits base n) := by
  rw [parseNumber_eq_some_iff]
  refine ⟨fun ⟨hne, h⟩ => numeral_of_pushDigits hbase hR hne h, fun ⟨zeros, h⟩ => ⟨?_, pushDigits_of_numeral hbase hR h⟩⟩
  intro hnil
  rw [hnil] at h
  simp [Nat.toDigits_ne_nil] at h

end Numerals

theorem parseNumber_ten_eq_some_iff (cs : List Char) (n : Nat) : parseNumber 10 cs = some n ↔ decimalNumeral cs n := by
  rw [parseNumber_eq_some_iff_numeral (R := Eq) (by decide) (fun d hd c => eq_digitChar_iff_of_lt_ten hd c),
    List.forall₂_eq_eq_eq, decimalNumeral]

theorem parseNumber_sixteen_eq_some_iff (cs : List Char) (n : Nat) : parseNumber 16 cs = some n ↔ hexNumeral cs n :=
  parseNumber_eq_some_iff_numeral (by decide) (fun d hd c => eq_digitChar_or_toUpper_iff_of_lt_sixteen hd c) cs n

/-! ### Literals -/

theorem parseHex_eq_some_iff (operand : List Char) (n : Nat) :
    parseHex operand = some n ↔ ∃ digits, operand = '0' :: 'x' :: digits ∧ hexNumeral digits n := by
  rw [parseHex.eq_def]
  split
  next digits =>
    rw [parseNumber_sixteen_eq_some_iff]
    exact ⟨fun h => ⟨digits, rfl, h⟩, fun ⟨_, heq, h⟩ => by cases heq; exact h⟩
  next hno => exact ⟨nofun, fun ⟨digits, heq, _⟩ => absurd heq (hno digits)⟩

/-- The two forms of a literal exclude each other: `x` is no decimal digit. -/
theorem not_decimalNumeral_hexLiteral (digits : List Char) (n : Nat) : ¬ decimalNumeral ('0' :: 'x' :: digits) n := by
  rw [← parseNumber_ten_eq_some_iff]
  intro h
  have hx := digit_or_underscore_of_parseNumber h 'x' (by simp)
  exact absurd hx (by decide)

theorem parseLiteral_eq_some_iff (operand : List Char) (n : Nat) :
    parseLiteral operand = some n ↔
      (decimalNumeral operand n ∨ ∃ digits, operand = '0' :: 'x' :: digits ∧ hexNumeral digits n) := by
  rw [← parseHex_eq_some_iff, parseLiteral.eq_def]
  split
  next digits => exact (or_iff_right (not_decimalNumeral_hexLiteral digits n)).symm
  next hno =>
    rw [parseNumber_ten_eq_some_iff, parseHex_eq_some_iff]
    exact (or_iff_left fun ⟨digits, heq, _⟩ => hno digits heq).symm

/-! ### The words of a line -/

/-- A word as `wordsOf` reads one: neither a blank nor a comment begins in it. -/
def IsWord (w : List Char) : Prop := w ≠ [] ∧ ∀ c ∈ w, c ≠ ' ' ∧ c ≠ '\t' ∧ c ≠ ';'

theorem isWord_append {v w : List Char} (hv : IsWord v) (hw : IsWord w) : IsWord (v ++ w) :=
  ⟨List.append_ne_nil_of_left_ne_nil hv.1 w, fun c hc => (List.mem_append.mp hc).elim (hv.2 c) (hw.2 c)⟩

theorem isWord_of_parseNumber {base n : Nat} {cs : List Char} (h : parseNumber base cs = some n) : IsWord cs := by
  refine ⟨ne_nil_of_parseNumber h, fun c hc => ⟨?_, ?_, ?_⟩⟩ <;>
  · rintro rfl
    exact absurd (digit_or_underscore_of_parseNumber h _ hc) (by decide)

theorem isWord_seed : IsWord ['S', 'E', 'E', 'D'] := by simp [IsWord]

theorem isWord_op : IsWord ['.', 'o', 'p'] := by simp [IsWord]

theorem isWord_zeroX : IsWord ['0', 'x'] := by simp [IsWord]

theorem isWord_of_hexNumeral {digits : List Char} {n : Nat} (h : hexNumeral digits n) : IsWord ('0' :: 'x' :: digits) :=
  isWord_append isWord_zeroX (isWord_of_parseNumber ((parseNumber_sixteen_eq_some_iff digits n).mpr h))

theorem takeWhile_of_isWord {w : List Char} (hw : IsWord w) (rest : List Char) :
    (w ++ rest).takeWhile (· ≠ ';') = w ++ rest.takeWhile (· ≠ ';') :=
  List.takeWhile_append_of_pos fun c hc => decide_eq_true (hw.2 c hc).2.2

theorem not_blank_of_isWord {w : List Char} (hw : IsWord w) : ∀ c ∈ w, (decide (c = ' ') || decide (c = '\t')) = false :=
  fun c hc => by simp [hw.2 c hc]

theorem wordsOf_of_isWord {w : List Char} (hw : IsWord w) : wordsOf w = [w] := by
  have hline := takeWhile_of_isWord hw []
  rw [List.append_nil, List.takeWhile_nil, List.append_nil] at hline
  rw [wordsOf, hline, List.splitOnP_eq_singleton (not_blank_of_isWord hw), List.filter_singleton, decide_eq_true hw.1]
  rfl

theorem wordsOf_append_space {w : List Char} (hw : IsWord w) (rest : List Char) :
    wordsOf (w ++ ' ' :: rest) = w :: wordsOf rest := by
  rw [wordsOf, takeWhile_of_isWord hw, List.takeWhile_cons_of_pos (by decide),
    List.splitOnP_append_cons_of_forall_mem (not_blank_of_isWord hw) _ (by decide),
    List.filter_cons_of_pos (by simpa using hw.1), wordsOf]

theorem wordsOf_pair {w operand : List Char} (hw : IsWord w) (hoperand : IsWord operand) :
    wordsOf (w ++ ' ' :: operand) = [w, operand] := by
  rw [wordsOf_append_space hw, wordsOf_of_isWord hoperand]

theorem wordsOf_append_comment (line comment : List Char) : wordsOf (line ++ ';' :: comment) = wordsOf line := by
  have htake : (line ++ ';' :: comment).takeWhile (· ≠ ';') = line.takeWhile (· ≠ ';') := by
    induction line with
    | nil => rfl
    | cons c line ih => by_cases hc : c = ';' <;> simp_all
  rw [wordsOf, htake, wordsOf]

/-! ### The lines that read as each command -/

/-- The words of the lines that read as `l`. -/
def LineWords (words : List (List Char)) : AsmLine → Prop
  | .seed n => ∃ operand, words = [['S', 'E', 'E', 'D'], operand] ∧
      (decimalNumeral operand n ∨ ∃ digits, operand = '0' :: 'x' :: digits ∧ hexNumeral digits n)
  | .rawNext => words = [['R', 'A', 'W', '_', 'N', 'E', 'X', 'T']]
  | .nextU32 => words = [['N', 'E', 'X', 'T', '_', 'U', '3', '2']]
  | .nextI32 => words = [['N', 'E', 'X', 'T', '_', 'I', '3', '2']]
  | .nextUniform => words = [['N', 'E', 'X', 'T', '_', 'U', 'N', 'I', 'F', 'O', 'R', 'M']]
  | .op n => ∃ digits, words = [['.', 'o', 'p'], '0' :: 'x' :: digits] ∧ hexNumeral digits n

theorem parseLine_of_lineWords {line : List Char} {l : AsmLine} (h : LineWords (wordsOf line) l) :
    parseLine line = .ok (some l) := by
  cases l with
  | seed n =>
    obtain ⟨operand, hwords, hnumeral⟩ := h
    simp [parseLine, hwords, (parseLiteral_eq_some_iff operand n).mpr hnumeral]
  | op n =>
    obtain ⟨digits, hwords, hnumeral⟩ := h
    simp [parseLine, hwords, (parseHex_eq_some_iff _ n).mpr ⟨digits, rfl, hnumeral⟩]
  | rawNext | nextU32 | nextI32 | nextUniform =>
    simp only [LineWords] at h
    simp [parseLine, h]

theorem lineWords_of_parseLine {line : List Char} {l : AsmLine} (h : parseLine line = .ok (some l)) :
    LineWords (wordsOf line) l := by
  unfold parseLine at h
  split at h
  next => cases h
  next w hwords =>
    split_ifs at h with hw hw hw hw <;> cases h <;> exact hwords.trans (congrArg (fun v => [v]) hw)
  next w operand hwords =>
    split_ifs at h with hw hw
    · split at h
      next n hliteral =>
        cases h
        exact ⟨operand, hw ▸ hwords, (parseLiteral_eq_some_iff operand n).mp hliteral⟩
      next => cases h
    · split at h
      next n hliteral =>
        cases h
        obtain ⟨digits, rfl, hnumeral⟩ := (parseHex_eq_some_iff operand n).mp hliteral
        exact ⟨digits, hw ▸ hwords, hnumeral⟩
      next => cases h
  next => cases h

theorem parseLine_eq_some_iff (line : List Char) (l : AsmLine) :
    parseLine line = .ok (some l) ↔ LineWords (wordsOf line) l :=
  ⟨lineWords_of_parseLine, parseLine_of_lineWords⟩

/-- Settles O52: a line reads as a command exactly when its words are that command's, so each form of line follows from the words
it splits into. -/
theorem assemblerTextReadsAsItsLines : Obligations.AssemblerTextReadsAsItsLines := by
  refine ⟨rfl, rfl, rfl, rfl, fun n digits h => ?decimal, fun n digits h => ⟨?hex, ?op⟩, fun line comment => ?comment,
    fun comment => ?onlyComment, fun w operand hw hoperand hchars => ?words, fun line l => ?every⟩
  case decimal =>
    have hword := isWord_of_parseNumber ((parseNumber_ten_eq_some_iff digits n).mpr h)
    exact parseLine_of_lineWords ⟨digits, wordsOf_pair isWord_seed hword, .inl h⟩
  case hex =>
    exact parseLine_of_lineWords ⟨_, wordsOf_pair isWord_seed (isWord_of_hexNumeral h), .inr ⟨digits, rfl, h⟩⟩
  case op =>
    exact parseLine_of_lineWords ⟨digits, wordsOf_pair isWord_op (isWord_of_hexNumeral h), h⟩
  case comment => rw [parseLine, parseLine, wordsOf_append_comment]
  case onlyComment => rfl
  case words =>
    have hw' : IsWord w := ⟨hw, fun c hc => hchars c (List.mem_append_left _ hc)⟩
    have hoperand' : IsWord operand := ⟨hoperand, fun c hc => hchars c (List.mem_append_right _ hc)⟩
    exact ⟨wordsOf_of_isWord hw', wordsOf_pair hw' hoperand'⟩
  case every =>
    rw [parseLine_eq_some_iff]
    cases l <;> rfl

end Sys2Proof.Machine
end

section
/-! PROOFS. SEED (spec/40_seed.md R40 to R43): the scrambled seed as a number and as two fields, the low bits that every stream
shares, and the Generator that SEED constructs whatever the block held. -/

namespace Sys2Proof.Machine

/-! ### The scrambled seed -/

theorem shiftLeft_or_scrambleConstant (n : Nat) : (n <<< 16) ||| 0x330E = n * 65536 + 13070 := by
  rw [← Nat.shiftLeft_add_eq_or_of_lt (by decide : 0x330E < 2 ^ 16), Nat.shiftLeft_eq]

theorem scramble_toNat (seed : Word64) : (scramble seed).toNat = seed.toNat % 2 ^ 32 * 65536 + 13070 := by
  have hlow : (seed.extractLsb' 0 32).toNat = seed.toNat % 2 ^ 32 := BitVec.extractLsb'_toNat ..
  rw [scramble, BitVec.toNat_append, hlow]
  exact shiftLeft_or_scrambleConstant _

theorem scramble_extractHigh (seed : Word64) : (scramble seed).extractLsb' 16 32 = seed.extractLsb' 0 32 :=
  BitVec.extractLsb'_append_eq_left

theorem scramble_extractLow (seed : Word64) : (scramble seed).extractLsb' 0 16 = 0x330E :=
  BitVec.extractLsb'_append_eq_right

/-- Settles O28: the concatenation read as a number and as its two fields; masking is reduction modulo `2^32`. -/
theorem scrambleForms : Obligations.ScrambleForms := by
  intro seed
  have hmask : seed.toNat &&& 0xFFFFFFFF = seed.toNat % 2 ^ 32 := Nat.and_two_pow_sub_one_eq_mod _ 32
  refine ⟨?shifted, scramble_toNat seed, scramble_extractHigh seed, scramble_extractLow seed, ?range⟩
  case shifted => rw [hmask, shiftLeft_or_scrambleConstant, scramble_toNat]
  case range =>
    rw [scramble_toNat]
    omega

/-- Settles O29: bits 47:16 of the state are the low half of the seed, and no other bit of the seed counts. -/
theorem scrambleSeparatesLowHalves : Obligations.ScrambleSeparatesLowHalves := by
  refine fun seed seed' => ⟨fun h => ?_, scramble_congr⟩
  have hnum := congrArg BitVec.toNat h
  rw [scramble_toNat, scramble_toNat] at hnum
  omega

/-! ### The low bits of a step result -/

/-- R46, item 3: only low bits feed low bits. -/
theorem muladd48_toNat_mod_two_pow (s : Word48) {k : Nat} (hk : k ≤ 48) :
    (muladd48 s).toNat % 2 ^ k = (0x5DEECE66D * (s.toNat % 2 ^ k) + 0xB) % 2 ^ k := by
  rw [muladd48_toNat, Nat.mod_mod_of_dvd _ (Nat.pow_dvd_pow 2 hk)]
  exact ((Nat.mod_modEq s.toNat (2 ^ k)).symm.mul_left _).add_right _

theorem extractLow_eq_iff {k : Nat} (s t : Word48) :
    s.extractLsb' 0 k = t.extractLsb' 0 k ↔ s.toNat % 2 ^ k = t.toNat % 2 ^ k := by
  rw [← BitVec.toNat_inj, BitVec.extractLsb'_toNat, BitVec.extractLsb'_toNat, Nat.shiftRight_zero, Nat.shiftRight_zero]

theorem extractLow_muladd48_congr {k : Nat} (hk : k ≤ 48) {s t : Word48} (h : s.extractLsb' 0 k = t.extractLsb' 0 k) :
    (muladd48 s).extractLsb' 0 k = (muladd48 t).extractLsb' 0 k := by
  rw [extractLow_eq_iff] at h ⊢
  rw [muladd48_toNat_mod_two_pow s hk, muladd48_toNat_mod_two_pow t hk, h]

theorem extractLow_iterate_muladd48_congr {k : Nat} (hk : k ≤ 48) {s t : Word48}
    (h : s.extractLsb' 0 k = t.extractLsb' 0 k) (n : Nat) :
    ((muladd48^[n]) s).extractLsb' 0 k = ((muladd48^[n]) t).extractLsb' 0 k := by
  induction n with
  | zero => exact h
  | succ n ih =>
    rw [Function.iterate_succ_apply', Function.iterate_succ_apply']
    exact extractLow_muladd48_congr hk ih

/-- Settles O30: every scrambled seed has the low bits of `scramble 0`, so its step results have those of the stream of seed 0,
which is evaluated. -/
theorem lowBitsSameForEverySeed : Obligations.LowBitsSameForEverySeed := by
  intro seed
  have hlow : (scramble seed).extractLsb' 0 16 = (scramble 0).extractLsb' 0 16 :=
    (scramble_extractLow seed).trans (scramble_extractLow 0).symm
  have hstream := extractLow_iterate_muladd48_congr (by decide : 16 ≤ 48) hlow
  exact ⟨(hstream 1).trans (by decide), (hstream 2).trans (by decide), (hstream 3).trans (by decide),
    (hstream 4).trans (by decide), (hstream 5).trans (by decide)⟩

/-! ### The command SEED -/

theorem exec_seed_of_clear {s : State} (hfault : s.fault = none) (arg : Word64) :
    exec (.seed arg) s = .next (seedGenerator arg s) :=
  congrArg _ (unlessFaulted_of_clear hfault)

/-- Settles O16: without a fault SEED writes the scrambled seed and responds Done. -/
theorem seedConstructsTheGenerator : Obligations.SeedConstructsTheGenerator :=
  fun arg _ hfault => ⟨scramble arg, scramble_toNat arg, exec_seed_of_clear hfault arg⟩

theorem step_of_present {s : State} {i : Instr} {rest : List HostInput} (hinputs : s.inputs = present i :: rest) :
    step s = exec i { s with inputs := rest } :=
  (step_of_command hinputs).trans (execute_of_decoded (decode_encode i) _)

/-- Every field of the next state is given by the seed and the inputs that remain: nothing of `s` is left. -/
theorem step_of_present_seed {s : State} {seed : Word64} {rest : List HostInput} (hfault : s.fault = none)
    (hinputs : s.inputs = present (.seed seed) :: rest) :
    step s = .next { state := some (scramble seed), fault := none, response := some .done, inputs := rest } := by
  rw [step_of_present hinputs, exec_seed_of_clear (s := { s with inputs := rest }) hfault, seedGenerator, respond, writeState,
    hfault]

/-- Settles O45: SEED takes both blocks to one state in one step, and the run goes on from there. -/
theorem seedErasesHistory : Obligations.SeedErasesHistory := by
  intro s s' seed rest n hfault hfault' hinputs hsame
  have hstep := step_of_present_seed hfault hinputs
  have hstep' := step_of_present_seed hfault' (hsame.trans hinputs)
  rw [runSteps_succ_of_step hstep, runSteps_succ_of_step hstep']

end Sys2Proof.Machine
end

section
/-! PROOFS. The 48-bit engine (spec/41_step.md R45, R46, R48): its widths, its inverse, and the one cycle of its states. -/

namespace Sys2Proof.Machine

/-! ### The engine as an affine map -/

/-- R45 in 48-bit arithmetic. -/
theorem muladd48_eq_mul_add (s : Word48) : muladd48 s = 0x5DEECE66D#48 * s + 0xB#48 :=
  BitVec.eq_of_toNat_eq (by simp [muladd48_toNat])

/-- Settles O31: the exact value grows with the state, so its bound is its value at the last state. -/
theorem engineSpecialValues : Obligations.EngineSpecialValues := by
  refine ⟨fun s => ?bound, by decide⟩
  case bound =>
    have := s.isLt
    simp only [Config.multiplier, Config.increment]
    omega

/-- Any intermediate reduction modulo a multiple of `2^48` is without effect. -/
theorem muladd48_toNat_of_reduced_product (s : Word48) {W : Nat} (hW : 48 ≤ W) :
    (muladd48 s).toNat = (0x5DEECE66D * s.toNat % 2 ^ W + 0xB) % 2 ^ 48 := by
  have hproduct : 0x5DEECE66D * s.toNat % 2 ^ W ≡ 0x5DEECE66D * s.toNat [MOD 2 ^ 48] :=
    (Nat.mod_modEq _ _).of_dvd (Nat.pow_dvd_pow 2 hW)
  exact (muladd48_toNat s).trans (hproduct.add_right 0xB).symm

/-- Truncation to 48 bits commutes with the wrapping multiply and add, and forgets the mask. -/
theorem muladd48_eq_wrapping64 (s : Word48) :
    muladd48 s = ((0x5DEECE66D#64 * s.setWidth 64 + 0xB#64) &&& 0xFFFFFFFFFFFF#64).setWidth 48 := by
  have hmask : (0xFFFFFFFFFFFF#64).setWidth 48 = BitVec.allOnes 48 := rfl
  rw [BitVec.setWidth_and, hmask, BitVec.and_allOnes, BitVec.setWidth_add _ _ (by decide),
    BitVec.setWidth_mul _ _ (by decide), BitVec.setWidth_setWidth_of_le _ (by decide), BitVec.setWidth_eq,
    muladd48_eq_mul_add]
  rfl

/-- Settles O32: an intermediate width of at least 48 bits keeps all that the last reduction keeps. -/
theorem engineImplementationsAgree : Obligations.EngineImplementationsAgree :=
  ⟨fun s _ hW => muladd48_toNat_of_reduced_product s hW, muladd48_eq_wrapping64⟩

/-- Settles O33: the reduction modulo `2^48` keeps the residue modulo every smaller power of two. -/
theorem lowBitsFeedLowBits : Obligations.LowBitsFeedLowBits :=
  fun s _ _ hk => muladd48_toNat_mod_two_pow s hk

/-! ### The inverse step -/

theorem inverse_mul_multiplier : 0xDFE05BCB1365#48 * 0x5DEECE66D#48 = 1#48 := by decide

theorem inverse_muladd48 (s : Word48) : 0xDFE05BCB1365#48 * (muladd48 s - 0xB#48) = s := by
  rw [muladd48_eq_mul_add, BitVec.add_sub_cancel, ← BitVec.mul_assoc, inverse_mul_multiplier, BitVec.one_mul]

theorem muladd48_inverse (s : Word48) : muladd48 (0xDFE05BCB1365#48 * (s - 0xB#48)) = s := by
  rw [muladd48_eq_mul_add, ← BitVec.mul_assoc, BitVec.mul_comm 0x5DEECE66D#48, inverse_mul_multiplier, BitVec.one_mul,
    BitVec.sub_add_cancel]

theorem muladd48_bijective : Function.Bijective muladd48 :=
  Function.bijective_iff_has_inverse.mpr ⟨fun s => 0xDFE05BCB1365#48 * (s - 0xB#48), inverse_muladd48, muladd48_inverse⟩

/-- Settles O34: the two compositions, and a map with an inverse is a bijection. -/
theorem stepIsABijection : Obligations.StepIsABijection :=
  ⟨by decide, inverse_muladd48, muladd48_inverse, muladd48_bijective.existsUnique⟩

/-! ### The one cycle of the states

The Hull-Dobell theorem for this engine (R48, item 3). After `n` steps the state has moved by a geometric sum times the first
move. The first move is odd, so whether the state is back turns on the sum alone, and the sum has as many factors 2 as `n`. -/

/-- Bit 0 flips at every step: the multiplier and the increment are odd. -/
theorem muladd48_toNat_mod_two (s : Word48) : (muladd48 s).toNat % 2 = (s.toNat + 1) % 2 := by
  have := muladd48_toNat_mod_two_pow s (k := 1) (by decide)
  omega

theorem muladd48_ne_self (s : Word48) : muladd48 s ≠ s := by
  intro h
  have hflip := muladd48_toNat_mod_two s
  rw [h] at hflip
  omega

/-- The factor by which `n` steps multiply the first move of the state. -/
def stepFactor (n : Nat) : Nat := ∑ i ∈ Finset.range n, 0x5DEECE66D ^ i

theorem stepFactor_succ (n : Nat) : stepFactor (n + 1) = 0x5DEECE66D * stepFactor n + 1 := geom_sum_succ

theorem iterate_muladd48_eq_add (s : Word48) (n : Nat) :
    muladd48^[n] s = s + (stepFactor n : Word48) * (muladd48 s - s) := by
  induction n with
  | zero => simp [stepFactor]
  | succ n ih =>
    have hcast : (stepFactor (n + 1) : Word48) = 0x5DEECE66D#48 * (stepFactor n : Word48) + 1 := by
      rw [stepFactor_succ, Nat.cast_add, Nat.cast_mul, Nat.cast_one]; rfl
    rw [Function.iterate_succ_apply', ih, hcast, muladd48_eq_mul_add, muladd48_eq_mul_add]
    ring

theorem natCast_word48_eq_zero_iff_dvd (n : Nat) : (n : Word48) = 0 ↔ 2 ^ 48 ∣ n := by
  rw [← BitVec.toNat_inj, Nat.dvd_iff_mod_eq_zero]
  exact Iff.rfl

theorem muladd48_sub_self_odd (s : Word48) : Odd (muladd48 s - s).toNat := by
  have hflip := muladd48_toNat_mod_two s
  rw [BitVec.toNat_sub, Nat.odd_iff]
  omega

/-- The sum of the first `n` powers of the multiplier has as many factors 2 as `n`: the multiplier is 1 modulo 4, so its `n`-th
power less 1 has as many more than `n` as the multiplier less 1 has. -/
theorem emultiplicity_stepFactor (n : Nat) : emultiplicity 2 (stepFactor n) = emultiplicity 2 n := by
  have hgeom : (stepFactor n : ℤ) * (0x5DEECE66D - 1) = 0x5DEECE66D ^ n - 1 ^ n := by
    rw [stepFactor, Nat.cast_sum, one_pow, ← geom_sum_mul]
    push_cast
    rfl
  have hlift := Int.two_pow_sub_pow' (x := 0x5DEECE66D) (y := 1) n (by decide) (by decide)
  have hfinite : FiniteMultiplicity (2 : ℤ) (0x5DEECE66D - 1) := Int.finiteMultiplicity_iff.mpr (by decide)
  rw [← hgeom, emultiplicity_mul Int.prime_two, add_comm] at hlift
  have hint : emultiplicity (2 : ℤ) (stepFactor n) = emultiplicity (2 : ℤ) n :=
    ENat.add_right_injective_of_ne_top (finiteMultiplicity_iff_emultiplicity_ne_top.mp hfinite) hlift
  rwa [← Nat.cast_ofNat, Int.natCast_emultiplicity, Int.natCast_emultiplicity] at hint

theorem two_pow_dvd_stepFactor_iff (k n : Nat) : 2 ^ k ∣ stepFactor n ↔ 2 ^ k ∣ n := by
  rw [pow_dvd_iff_le_emultiplicity, emultiplicity_stepFactor, pow_dvd_iff_le_emultiplicity]

theorem isPeriodicPt_muladd48_iff (s : Word48) (n : Nat) : Function.IsPeriodicPt muladd48 n s ↔ 2 ^ 48 ∣ n := by
  have hcoprime : (2 ^ 48).Coprime (muladd48 s - s).toNat := (Nat.coprime_two_left.mpr (muladd48_sub_self_odd s)).pow_left 48
  have hmove : (((muladd48 s - s).toNat : Nat) : Word48) = muladd48 s - s := 
    (BitVec.ofNat_toNat 48 _).trans (BitVec.setWidth_eq _)
  calc Function.IsPeriodicPt muladd48 n s
    _ ↔ (stepFactor n : Word48) * (muladd48 s - s) = 0 := by
      rw [Function.IsPeriodicPt, Function.IsFixedPt, iterate_muladd48_eq_add]; exact add_eq_left
    _ ↔ 2 ^ 48 ∣ stepFactor n * (muladd48 s - s).toNat := by
      rw [← natCast_word48_eq_zero_iff_dvd, Nat.cast_mul, hmove]
    _ ↔ 2 ^ 48 ∣ n := by rw [hcoprime.dvd_mul_right, two_pow_dvd_stepFactor_iff]

theorem minimalPeriod_muladd48 (s : Word48) : Function.minimalPeriod muladd48 s = 2 ^ 48 := by
  apply Nat.dvd_antisymm
  · exact Function.isPeriodicPt_iff_minimalPeriod_dvd.mp ((isPeriodicPt_muladd48_iff s _).mpr dvd_rfl)
  · exact (isPeriodicPt_muladd48_iff s _).mp (Function.isPeriodicPt_minimalPeriod _ s)

theorem iterate_muladd48_injective (s : Word48) : Function.Injective fun v : Word48 => muladd48^[v.toNat] s := by
  intro v w h
  apply BitVec.eq_of_toNat_eq
  refine Function.iterate_injOn_Iio_minimalPeriod (f := muladd48) (x := s) ?_ ?_ h <;>
  · rw [minimalPeriod_muladd48]
    exact BitVec.isLt _

/-- An injective map of the finite set of states to itself is onto. -/
theorem iterate_muladd48_surjective (s : Word48) : Function.Surjective fun v : Word48 => muladd48^[v.toNat] s :=
  have : Finite Word48 := Finite.of_equiv _ BitVec.equivFin.symm.toEquiv
  Finite.surjective_of_injective (iterate_muladd48_injective s)

/-- Settles O36: the period of every state is `2^48`, and as many states as the period has steps are all states. -/
theorem statesFormOneCycle : Obligations.StatesFormOneCycle := by
  refine ⟨fun s => ?back, fun s n hpos hlt h => ?notBefore, fun s s' => ?reaches⟩
  case back => exact (isPeriodicPt_muladd48_iff s _).mpr dvd_rfl
  case notBefore => exact Nat.not_dvd_of_pos_of_lt hpos hlt ((isPeriodicPt_muladd48_iff s n).mp h)
  case reaches =>
    obtain ⟨v, hv⟩ := iterate_muladd48_surjective s s'
    exact ⟨v.toNat, v.isLt, hv⟩

end Sys2Proof.Machine
end

section
/-! PROOFS. The step commands (spec/41_step.md R47 to R49): what each completes with on a usable block, and the stream position
that a run of them counts. -/

namespace Sys2Proof.Machine

/-! ### A step command on a usable block -/

theorem exec_of_usable {i : Instr} {s : State} {v : Word48} (hi : isStepCommand i = true) (hfault : s.fault = none)
    (hstate : s.state = some v) : exec i s = .next (stepSlice i (muladd48 v) (writeState (muladd48 v) s)) := by
  rw [exec_of_isStepCommand hi, stepCommand, unlessFaulted_of_clear hfault, whenSeeded_of_seeded hstate]

theorem rawData_toNat (v : Word48) : (rawData v).toNat = v.toNat := BitVec.toNat_setWidth_of_le (by decide)

theorem rawData_injective : Function.Injective rawData := fun v w h =>
  BitVec.eq_of_toNat_eq (by rw [← rawData_toNat, h, rawData_toNat])

/-- Settles O17: without a fault RAW_NEXT writes the step result and delivers it. -/
theorem rawNextReturnsTheNewState : Obligations.RawNextReturnsTheNewState :=
  fun _ v hfault hstate => ⟨muladd48 v, rawData (muladd48 v), muladd48_toNat v, rawData_toNat _,
    exec_of_usable rfl hfault hstate⟩

/-- Settles O35: the second RAW_NEXT steps from the state that the first returned, and no state is its own successor. -/
theorem consecutiveRawResultsDiffer : Obligations.ConsecutiveRawResultsDiffer := by
  refine ⟨muladd48_ne_self, fun s hfault hseeded => ?_⟩
  obtain ⟨v, hstate⟩ := Option.ne_none_iff_exists'.mp hseeded
  refine ⟨_, _, _, _, exec_of_usable rfl hfault hstate, exec_of_usable rfl hfault rfl, rfl, rfl, fun h => ?_⟩
  exact muladd48_ne_self _ (rawData_injective h).symm

/-! ### The value a completed step command delivers -/

/-- The slice of a step result that a step command delivers (R47, R51, R52, R56). SEED delivers none; its arm is never used. -/
def sliceData : Instr → Word48 → Word64
  | .seed _, _ => 0
  | .rawNext, v => rawData v
  | .nextU32, v => unsignedData (hi32 v)
  | .nextI32, v => signedData (hi32 v)
  | .nextUniform, v => floatData (f32Bits (unit32 (hi32 v)))

theorem stepSlice_of_noFault {i : Instr} {v : Word48} {s : State} (hi : isStepCommand i = true)
    (hfault : (stepSlice i v s).fault = none) : stepSlice i v s = respond (.ok (sliceData i v)) s := by
  cases i with
  | seed => cases hi
  | rawNext | nextU32 | nextI32 => rfl
  | nextUniform =>
    obtain ⟨-, hok⟩ | ⟨-, hraise⟩ := uniformSlice_cases v s
    · exact hok
    · rw [stepSlice, hraise] at hfault
      cases hfault

/-- A step command after which no fault is recorded has stepped and delivered its slice. -/
theorem CommandEffect.delivers {c : Cmd} {i : Instr} {s t : State} (h : CommandEffect c s t) (hdecode : decode c = .ok i)
    (hi : isStepCommand i = true) (hfault : t.fault = none) :
    ∃ v, s.fault = none ∧ s.state = some v ∧ t.state = some (muladd48 v) ∧
      t.response = some (.ok (sliceData i (muladd48 v))) := by
  cases h with
  | refused hheld => cases hheld.symm.trans hfault
  | illegal | unseeded => cases hfault
  | seed _ hdecode' =>
    cases hdecode.symm.trans hdecode'
    cases hi
  | @stepped _ v hclear hdecode' _ hstate =>
    cases hdecode.symm.trans hdecode'
    rw [stepSlice_of_noFault hi hfault]
    exact ⟨v, hclear, hstate, rfl, rfl⟩

/-! ### The stream position -/

/-- The invariant of a run: unless a fault is recorded, the block holds `v`. -/
def HoldsUnlessFaulted (v : Word48) (s : State) : Prop := s.fault = none → s.state = some v

/-- What the invariant becomes after a step command `i`: unless a fault is recorded, the block holds the step result `w` and has
delivered the slice of it that `i` selects. -/
def DeliveredUnlessFaulted (i : Instr) (w : Word48) (t : State) : Prop :=
  t.fault = none → t.state = some w ∧ t.response = some (.ok (sliceData i w))

theorem DeliveredUnlessFaulted.holds {i : Instr} {w : Word48} {t : State} (h : DeliveredUnlessFaulted i w t) :
    HoldsUnlessFaulted w t := fun hfault => (h hfault).1

theorem step_of_present_stepCommand {i : Instr} {v : Word48} {s : State} {rest : List HostInput}
    (hi : isStepCommand i = true) (hholds : HoldsUnlessFaulted v s) (hinputs : s.inputs = present i :: rest) :
    ∃ t, step s = .next t ∧ t.inputs = rest ∧ DeliveredUnlessFaulted i (muladd48 v) t := by
  obtain ⟨t, ht, heffect⟩ := execute_effect (encode i) { s with inputs := rest }
  refine ⟨t, (step_of_command hinputs).trans ht, heffect.keeps_inputs, fun hfault => ?_⟩
  obtain ⟨w, hclear, hstate, hdelivered⟩ := heffect.delivers (decode_encode i) hi hfault
  cases hstate.symm.trans (hholds hclear)
  exact hdelivered

/-- R49, by induction on the step commands before the last one: each carries the invariant to the successor of the state. -/
theorem runSteps_of_stepCommands {is : List Instr} {i : Instr} {v : Word48} {s : State} {rest : List HostInput}
    (his : ∀ j ∈ is ++ [i], isStepCommand j = true) (hholds : HoldsUnlessFaulted v s)
    (hinputs : s.inputs = (is ++ [i]).map present ++ rest) :
    ∃ t, runSteps (is.length + 1) s = .next t ∧ t.inputs = rest ∧
      DeliveredUnlessFaulted i (muladd48^[is.length + 1] v) t := by
  induction is generalizing v s with
  | nil =>
    obtain ⟨t, ht, hrest, hdelivered⟩ := step_of_present_stepCommand (his i (by simp)) hholds hinputs
    exact ⟨t, runSteps_succ_of_step ht 0, hrest, hdelivered⟩
  | cons j is ih =>
    obtain ⟨t, ht, hrest, hdelivered⟩ := step_of_present_stepCommand (his j (by simp)) hholds hinputs
    obtain ⟨u, hu, hlast⟩ := ih (fun k hk => his k (List.mem_cons_of_mem j hk)) hdelivered.holds hrest
    exact ⟨u, (runSteps_succ_of_step ht _).trans hu, hlast⟩

/-- Settles O44: SEED leaves the scrambled seed in the block, and the run of step commands goes on from there. -/
theorem streamPositionCountsTheSteps : Obligations.StreamPositionCountsTheSteps := by
  intro seed is i s rest his hfault hinputs
  obtain ⟨t, ht, hseeded, hremain⟩ : ∃ t, step s = .next t ∧ t.state = some (scramble seed) ∧
      t.inputs = (is ++ [i]).map present ++ rest := ⟨_, step_of_present_seed hfault hinputs, rfl, rfl⟩
  obtain ⟨u, hu, hrest, hdelivered⟩ := runSteps_of_stepCommands his (fun _ => hseeded) hremain
  refine ⟨u, (runSteps_succ_of_step ht _).trans hu, hrest, fun hclear => ?_⟩
  obtain ⟨hstate, hresponse⟩ := hdelivered hclear
  refine ⟨hstate, ?_, ?_, ?_, ?_⟩ <;>
  · rintro rfl
    exact hresponse

end Sys2Proof.Machine
end

section
/-! PROOFS. The integer slice (spec/42_slice_int.md R50 to R53): the forms of `hi32`, what NEXT_U32 and NEXT_I32 deliver, and the
four slices of one step result. -/

namespace Sys2Proof.Machine

/-! ### The forms of the slice -/

/-- Masking and shifting commute: the shift moves the mask down with the word. -/
theorem and_mask_ushiftRight (s : Word64) : (s &&& (0xFFFFFFFF <<< 16)) >>> 16 = (s >>> 16) &&& 0xFFFFFFFF :=
  BitVec.ushiftRight_and_distrib s (0xFFFFFFFF <<< 16) 16

theorem hi32_toNat_eq_shift_and (s : Word48) : (hi32 s).toNat = (s.toNat >>> 16) &&& 0xFFFFFFFF := by
  rw [hi32, BitVec.extractLsb'_toNat]
  exact (Nat.and_two_pow_sub_one_eq_mod _ 32).symm

theorem hi32_toNat_eq_mask_shift (s : Word48) : (hi32 s).toNat = (s.toNat &&& (0xFFFFFFFF <<< 16)) >>> 16 := by
  rw [hi32_toNat_eq_shift_and, Nat.shiftRight_and_distrib, Nat.shiftLeft_shiftRight]

/-- Settles O37: masking commutes with shifting, and the mask keeps all that a 48-bit value has above bit 15. -/
theorem sliceForms : Obligations.SliceForms :=
  ⟨and_mask_ushiftRight,
    fun s => ⟨hi32_toNat_eq_mask_shift s, hi32_toNat_eq_shift_and s, hi32_toNat s, rfl⟩⟩

/-! ### The placements of the slice as numbers -/

theorem unsignedData_toNat (u : Word32) : (unsignedData u).toNat = u.toNat := BitVec.toNat_setWidth_of_le (by decide)

theorem unsignedData_setWidth (u : Word32) : (unsignedData u).setWidth 32 = u := by
  rw [unsignedData, BitVec.setWidth_setWidth_of_le u (by decide), BitVec.setWidth_eq]

/-- R53: the value NEXT_U32 delivers, from the value RAW_NEXT delivers. -/
theorem unsignedData_hi32 (v : Word48) : unsignedData (hi32 v) = (rawData v >>> 16) &&& 0xFFFFFFFF := by
  apply BitVec.eq_of_toNat_eq
  rw [unsignedData_toNat, hi32_toNat_eq_shift_and, BitVec.toNat_and, BitVec.toNat_ushiftRight, rawData_toNat]
  rfl

theorem signedData_toInt (u : Word32) :
    (signedData u).toInt = if u.toNat < 2 ^ 31 then (u.toNat : Int) else (u.toNat : Int) - 2 ^ 32 := by
  rw [signedData, BitVec.toInt_signExtend_of_le (by decide), BitVec.toInt_eq_toNat_cond]
  split <;> split <;> omega

/-- R53: bit 31 decides between the two values of `signedData_toInt`. -/
theorem signedData_toInt_eq_sub_bit31 (u : Word32) :
    (signedData u).toInt = (u.toNat : Int) - 2 ^ 32 * ((u.toNat / 2 ^ 31 % 2 : Nat) : Int) := by
  have hu := u.isLt
  rw [signedData_toInt]
  split <;> omega

/-! ### The integer outputs of a usable block -/

/-- Settles O18: without a fault NEXT_U32 writes the step result and delivers its slice, zero-extended. -/
theorem nextU32ReturnsTheUpperBits : Obligations.NextU32ReturnsTheUpperBits :=
  fun _ v hfault hstate => ⟨muladd48 v, unsignedData (hi32 (muladd48 v)), muladd48_toNat v,
    (unsignedData_toNat _).trans (hi32_toNat _), exec_of_usable rfl hfault hstate⟩

/-- Settles O19: without a fault NEXT_I32 writes the step result and delivers its slice, sign-extended. -/
theorem nextI32ReturnsTheSignedUpperBits : Obligations.NextI32ReturnsTheSignedUpperBits := by
  intro s v hfault hstate
  refine ⟨muladd48 v, signedData (hi32 (muladd48 v)), muladd48_toNat v, ?signed, exec_of_usable rfl hfault hstate⟩
  case signed =>
    rw [signedData_toInt, hi32_toNat]
    rfl

/-! ### One step result, four slices -/

theorem uniformSlice_response (v : Word48) (s : State) :
    (uniformSlice v s).response = some (.fault .unitInterval) ∨
    (uniformSlice v s).response = some (.ok (floatData (f32Bits (unit32 (hi32 v))))) := by
  obtain ⟨-, hok⟩ | ⟨-, hraise⟩ := uniformSlice_cases v s
  · exact .inr (by rw [hok, respond_response])
  · exact .inl (by rw [hraise, raiseFault_response])

/-- Settles O25: a slice leaves the step result in the block, and what it delivers is read off that step result. -/
theorem extractionIsConsistent : Obligations.ExtractionIsConsistent := by
  intro s v hfault hstate
  refine ⟨rawData (muladd48 v), unsignedData (hi32 (muladd48 v)), signedData (hi32 (muladd48 v)), _, _, _, _,
    exec_of_usable rfl hfault hstate, exec_of_usable rfl hfault hstate, exec_of_usable rfl hfault hstate,
    exec_of_usable rfl hfault hstate, rfl, rfl, rfl, rfl, rawData_toNat _, rfl, rfl, ?uniformState,
    unsignedData_hi32 _, ?signed, ?uniform⟩
  case uniformState => exact stepSlice_state rfl _ _
  case signed => rw [unsignedData_toNat, signedData_toInt_eq_sub_bit31]
  case uniform =>
    rw [unsignedData_setWidth]
    exact uniformSlice_response _ _

end Sys2Proof.Machine
end

section
/-! PROOFS. The exact rationals of the float slice (spec/43_slice_float.md R54): the exponent, and rounding to nearest with ties
to even, as facts about rational numbers. -/

namespace Sys2Proof.Machine

/-! ### A `Ratio` as a rational number -/

/-- The rational number a `Ratio` stands for. -/
def Ratio.toRat (x : Ratio) : ℚ := x.num / x.den

theorem Ratio.toRat_scale (x : Ratio) (k : ℤ) : (x.scale k).toRat = x.toRat * 2 ^ k := by
  have hk : (2 : ℚ) ^ k = 2 ^ k.toNat / 2 ^ (-k).toNat := by
    rw [← zpow_natCast, ← zpow_natCast, ← zpow_sub₀ two_ne_zero]
    congr 1
    omega
  simp only [Ratio.toRat, Ratio.scale, hk, Nat.cast_mul, Nat.cast_pow, Nat.cast_ofNat, mul_div_mul_comm]

theorem Ratio.scale_den_pos {x : Ratio} (hden : 0 < x.den) (k : ℤ) : 0 < (x.scale k).den :=
  Nat.mul_pos hden (Nat.two_pow_pos _)

theorem Ratio.toRat_pos {x : Ratio} (hnum : 0 < x.num) (hden : 0 < x.den) : 0 < x.toRat :=
  div_pos (Nat.cast_pos.mpr hnum) (Nat.cast_pos.mpr hden)

theorem Ratio.toRat_nonneg (x : Ratio) : 0 ≤ x.toRat := div_nonneg x.num.cast_nonneg x.den.cast_nonneg

theorem Ratio.num_pos_of_toRat_pos {x : Ratio} (h : 0 < x.toRat) : 0 < x.num := by
  refine Nat.pos_of_ne_zero fun hnum => h.ne' ?_
  rw [Ratio.toRat, hnum, Nat.cast_zero, zero_div]

theorem Ratio.toRat_natCast (n : ℕ) : (Ratio.mk n 1).toRat = n := by
  simp only [Ratio.toRat, Nat.cast_one, div_one]

theorem Ratio.toRat_le_toRat_iff {x y : Ratio} (hx : 0 < x.den) (hy : 0 < y.den) :
    x.toRat ≤ y.toRat ↔ x.num * y.den ≤ y.num * x.den := by
  rw [Ratio.toRat, Ratio.toRat, div_le_div_iff₀ (Nat.cast_pos.mpr hx) (Nat.cast_pos.mpr hy)]
  exact_mod_cast Iff.rfl

theorem Ratio.natCast_le_toRat_iff {x : Ratio} (hden : 0 < x.den) (n : ℕ) : (n : ℚ) ≤ x.toRat ↔ n * x.den ≤ x.num := by
  rw [Ratio.toRat, le_div_iff₀ (Nat.cast_pos.mpr hden)]
  exact_mod_cast Iff.rfl

theorem Ratio.toRat_lt_natCast_iff {x : Ratio} (hden : 0 < x.den) (n : ℕ) : x.toRat < n ↔ x.num < n * x.den := by
  rw [Ratio.toRat, div_lt_iff₀ (Nat.cast_pos.mpr hden)]
  exact_mod_cast Iff.rfl

/-! ### The exponent -/

theorem two_zpow_log2_bracket {n : ℕ} (hn : 0 < n) : (2 : ℚ) ^ (n.log2 : ℤ) ≤ n ∧ (n : ℚ) < 2 ^ (n.log2 + 1 : ℤ) :=
  ⟨by exact_mod_cast Nat.log2_self_le hn.ne', by exact_mod_cast Nat.lt_log2_self⟩

/-- The difference of the bit lengths is the exponent or one more. -/
theorem Ratio.toRat_bracket_log2 {x : Ratio} (hnum : 0 < x.num) (hden : 0 < x.den) :
    (2 : ℚ) ^ ((x.num.log2 : ℤ) - x.den.log2 - 1) < x.toRat ∧ x.toRat < 2 ^ ((x.num.log2 : ℤ) - x.den.log2 + 1) := by
  obtain ⟨hnumLow, hnumHigh⟩ := two_zpow_log2_bracket hnum
  obtain ⟨hdenLow, hdenHigh⟩ := two_zpow_log2_bracket hden
  rw [sub_sub, zpow_sub₀ two_ne_zero, sub_add_eq_add_sub, zpow_sub₀ two_ne_zero]
  exact ⟨div_lt_div₀' hnumLow hdenHigh (Nat.cast_pos.mpr hnum) (Nat.cast_pos.mpr hden),
    div_lt_div₀ hnumHigh hdenLow (zpow_nonneg zero_le_two _) (zpow_pos two_pos _)⟩

theorem Ratio.exponent_bracket {x : Ratio} (hnum : 0 < x.num) (hden : 0 < x.den) :
    (2 : ℚ) ^ x.exponent ≤ x.toRat ∧ x.toRat < 2 ^ (x.exponent + 1) := by
  obtain ⟨hlow, hhigh⟩ := Ratio.toRat_bracket_log2 hnum hden
  have hle (k : ℤ) : (x.scale (-k)).den ≤ (x.scale (-k)).num ↔ (2 : ℚ) ^ k ≤ x.toRat := by
    rw [← one_mul (x.scale (-k)).den, ← Ratio.natCast_le_toRat_iff (Ratio.scale_den_pos hden _), Ratio.toRat_scale, zpow_neg,
      ← div_eq_mul_inv, le_div_iff₀ (zpow_pos two_pos k), Nat.cast_one, one_mul]
  simp only [Ratio.exponent, hle]
  split
  case isTrue h => exact ⟨h, hhigh⟩
  case isFalse h => exact ⟨hlow.le, by rw [sub_add_cancel]; exact not_le.mp h⟩

theorem log_two_eq_of_bracket {q : ℚ} {e : ℤ} (hlow : (2 : ℚ) ^ e ≤ q) (hhigh : q < 2 ^ (e + 1)) : Int.log 2 q = e := by
  have hpos : 0 < q := (zpow_pos two_pos e).trans_le hlow
  exact le_antisymm (Int.lt_add_one_iff.mp ((Int.lt_zpow_iff_log_lt one_lt_two hpos).mp hhigh))
    ((Int.zpow_le_iff_le_log one_lt_two hpos).mp hlow)

theorem Ratio.exponent_eq_log {x : Ratio} (hnum : 0 < x.num) (hden : 0 < x.den) : x.exponent = Int.log 2 x.toRat := by
  obtain ⟨hlow, hhigh⟩ := Ratio.exponent_bracket hnum hden
  exact (log_two_eq_of_bracket hlow hhigh).symm

/-- Scaling by `2^(k - exponent)` moves the value to `[2^k, 2^(k+1))`. -/
theorem Ratio.scale_sub_exponent_bracket {x : Ratio} (hnum : 0 < x.num) (hden : 0 < x.den) (k : ℕ) :
    ((2 ^ k : ℕ) : ℚ) ≤ (x.scale (k - x.exponent)).toRat ∧ (x.scale (k - x.exponent)).toRat < (2 ^ (k + 1) : ℕ) := by
  obtain ⟨hlow, hhigh⟩ := Ratio.exponent_bracket hnum hden
  have hpos : (0 : ℚ) < 2 ^ x.exponent := zpow_pos two_pos _
  rw [zpow_add_one₀ two_ne_zero] at hhigh
  rw [Ratio.toRat_scale, zpow_sub₀ two_ne_zero, zpow_natCast, mul_div_assoc', le_div_iff₀ hpos, div_lt_iff₀ hpos]
  push_cast
  rw [pow_succ, mul_assoc, mul_comm 2, mul_comm x.toRat]
  exact ⟨by gcongr, by gcongr⟩

/-- Settles O38: the bracket of the exponent, scaled to `[1, 2)`. -/
theorem exponentBracketsTheValue : Obligations.ExponentBracketsTheValue := by
  intro x hnum hden
  have hscaled := Ratio.scale_den_pos hden (-x.exponent)
  obtain ⟨hlow, hhigh⟩ := Ratio.scale_sub_exponent_bracket hnum hden 0
  rw [Nat.cast_zero, zero_sub] at hlow hhigh
  exact ⟨(one_mul _).symm.trans_le ((Ratio.natCast_le_toRat_iff hscaled 1).mp hlow),
    (Ratio.toRat_lt_natCast_iff hscaled 2).mp hhigh⟩

/-! ### Rounding to nearest, ties to even -/

theorem Ratio.div_le_roundTiesToEven (y : Ratio) : y.num / y.den ≤ y.roundTiesToEven := by
  simp only [Ratio.roundTiesToEven]
  split <;> omega

theorem Ratio.roundTiesToEven_le_div_add_one (y : Ratio) : y.roundTiesToEven ≤ y.num / y.den + 1 := by
  simp only [Ratio.roundTiesToEven]
  split <;> omega

/-- `n` is a natural number nearest to `q`, and even where `q` is halfway between two. -/
def NearestEven (q : ℚ) (n : ℕ) : Prop :=
  2 * q ≤ 2 * n + 1 ∧ 2 * n ≤ 2 * q + 1 ∧ (2 * q = 2 * n + 1 ∨ 2 * n = 2 * q + 1 → n % 2 = 0)

/-- Two distinct numbers nearest to one value would be neighbours and both even. -/
theorem NearestEven.mono {q r : ℚ} {m n : ℕ} (hm : NearestEven q m) (hn : NearestEven r n) (hqr : q ≤ r) : m ≤ n := by
  obtain ⟨-, hmLow, hmEven⟩ := hm
  obtain ⟨hnHigh, -, hnEven⟩ := hn
  by_contra hlt
  have hsucc : (n : ℚ) + 1 ≤ m := by exact_mod_cast Nat.lt_of_not_le hlt
  have hmTie := hmEven (.inr (by linarith))
  have hnTie := hnEven (.inl (by linarith))
  have hnext : m = n + 1 := by exact_mod_cast (by linarith : (m : ℚ) = n + 1)
  omega

theorem nearestEven_toRat_iff {y : Ratio} (hden : 0 < y.den) (n : ℕ) :
    NearestEven y.toRat n ↔
      2 * y.num ≤ (2 * n + 1) * y.den ∧ 2 * n * y.den ≤ 2 * y.num + y.den ∧
        (2 * y.num = (2 * n + 1) * y.den ∨ 2 * n * y.den = 2 * y.num + y.den → n % 2 = 0) := by
  have hd : (0 : ℚ) < y.den := Nat.cast_pos.mpr hden
  rw [NearestEven, Ratio.toRat, mul_div_assoc', div_add_one hd.ne', div_le_iff₀ hd, le_div_iff₀ hd, div_eq_iff hd.ne',
    eq_div_iff hd.ne']
  exact_mod_cast Iff.rfl

/-- The rest of the division decides between the floor and its successor. -/
theorem Ratio.nearestEven_roundTiesToEven {y : Ratio} (hden : 0 < y.den) : NearestEven y.toRat y.roundTiesToEven := by
  have hdivision := Nat.div_add_mod' y.num y.den
  have hrest := Nat.mod_lt y.num hden
  simp only [nearestEven_toRat_iff hden, Ratio.roundTiesToEven]
  split <;> simp only [add_mul, mul_assoc, mul_add, one_mul] <;> omega

/-! ### `rne` -/

theorem rne_of_pos (p : ℕ) {x : Ratio} (hnum : 0 < x.num) :
    rne p x = Ratio.scale ⟨(x.scale (-(x.exponent - p + 1))).roundTiesToEven, 1⟩ (x.exponent - p + 1) :=
  if_neg hnum.ne'

/-- The scaled value is in `[2^(p-1), 2^p)`, and so is its floor. -/
theorem roundTiesToEven_significand_bracket {p : ℕ} (hp : 1 ≤ p) {x : Ratio} (hnum : 0 < x.num) (hden : 0 < x.den) :
    2 ^ (p - 1) ≤ (x.scale (-(x.exponent - p + 1))).roundTiesToEven ∧
      (x.scale (-(x.exponent - p + 1))).roundTiesToEven ≤ 2 ^ p := by
  have hscale : -(x.exponent - p + 1) = ((p - 1 : ℕ) : ℤ) - x.exponent := by omega
  obtain ⟨hlow, hhigh⟩ := Ratio.scale_sub_exponent_bracket hnum hden (p - 1)
  rw [← hscale] at hlow hhigh
  rw [Nat.sub_add_cancel hp] at hhigh
  have hyden := Ratio.scale_den_pos hden (-(x.exponent - p + 1))
  generalize x.scale (-(x.exponent - p + 1)) = y at *
  constructor
  · exact ((Nat.le_div_iff_mul_le hyden).mpr ((Ratio.natCast_le_toRat_iff hyden _).mp hlow)).trans
      y.div_le_roundTiesToEven
  · exact y.roundTiesToEven_le_div_add_one.trans
      ((Nat.div_lt_iff_lt_mul hyden).mpr ((Ratio.toRat_lt_natCast_iff hyden _).mp hhigh))

/-- Settles O39: `n` is the significand in units in the last place, rounded. -/
theorem roundingIsToNearestTiesToEven : Obligations.RoundingIsToNearestTiesToEven := by
  intro p x hp hnum hden
  obtain ⟨hlow, hhigh⟩ := roundTiesToEven_significand_bracket hp hnum hden
  have hyden := Ratio.scale_den_pos hden (-(x.exponent - p + 1))
  exact ⟨_, rne_of_pos p hnum, hlow, hhigh, (nearestEven_toRat_iff hyden _).mp (Ratio.nearestEven_roundTiesToEven hyden)⟩

theorem rne_den_pos (p : ℕ) (x : Ratio) : 0 < (rne p x).den := by
  rw [rne]
  split
  · exact one_pos
  · exact Ratio.scale_den_pos one_pos _

theorem rne_of_zero (p : ℕ) {x : Ratio} (hnum : x.num = 0) : rne p x = ⟨0, 1⟩ := if_pos hnum

theorem num_pos_of_toRat_rne_pos {p : ℕ} {x : Ratio} (h : 0 < (rne p x).toRat) : 0 < x.num := by
  refine Nat.pos_of_ne_zero fun hnum => h.ne' ?_
  rw [rne_of_zero p hnum, Ratio.toRat_natCast, Nat.cast_zero]

theorem two_zpow_eq_natCast_mul {k : ℕ} {d u : ℤ} (h : d = k + u) : (2 : ℚ) ^ d = (2 ^ k : ℕ) * 2 ^ u := by
  rw [h, zpow_add₀ two_ne_zero, zpow_natCast, Nat.cast_pow, Nat.cast_ofNat]

theorem toRat_rne_of_pos (p : ℕ) {x : Ratio} (hnum : 0 < x.num) :
    (rne p x).toRat = (x.scale (-(x.exponent - p + 1))).roundTiesToEven * 2 ^ (x.exponent - p + 1) := by
  rw [rne_of_pos p hnum, Ratio.toRat_scale, Ratio.toRat_natCast]

/-- `rne` keeps the exponent or rounds up to the next power of two. -/
theorem toRat_rne_bracket {p : ℕ} (hp : 1 ≤ p) {x : Ratio} (hnum : 0 < x.num) (hden : 0 < x.den) :
    (2 : ℚ) ^ x.exponent ≤ (rne p x).toRat ∧ (rne p x).toRat ≤ 2 ^ (x.exponent + 1) := by
  obtain ⟨hlow, hhigh⟩ := roundTiesToEven_significand_bracket hp hnum hden
  rw [toRat_rne_of_pos p hnum, two_zpow_eq_natCast_mul (by omega : x.exponent = (p - 1 : ℕ) + (x.exponent - p + 1)),
    two_zpow_eq_natCast_mul (by omega : x.exponent + 1 = p + (x.exponent - p + 1))]
  exact ⟨by gcongr, by gcongr⟩

/-- Rounding is monotone: within one exponent as the significands are, and across a power of two through it. -/
theorem toRat_rne_mono {p : ℕ} (hp : 1 ≤ p) {x y : Ratio} (hx : 0 < x.den) (hy : 0 < y.den) (hxy : x.toRat ≤ y.toRat) :
    (rne p x).toRat ≤ (rne p y).toRat := by
  obtain hxnum | hxnum := Nat.eq_zero_or_pos x.num
  · rw [rne_of_zero p hxnum, Ratio.toRat_natCast, Nat.cast_zero]
    exact Ratio.toRat_nonneg _
  have hynum : 0 < y.num := Ratio.num_pos_of_toRat_pos ((Ratio.toRat_pos hxnum hx).trans_le hxy)
  have hexp : x.exponent ≤ y.exponent := by
    rw [Ratio.exponent_eq_log hxnum hx, Ratio.exponent_eq_log hynum hy]
    exact Int.log_mono_right (Ratio.toRat_pos hxnum hx) hxy
  obtain heq | hlt := hexp.eq_or_lt
  · have hscaled : (x.scale (-(y.exponent - p + 1))).toRat ≤ (y.scale (-(y.exponent - p + 1))).toRat := by
      rw [Ratio.toRat_scale, Ratio.toRat_scale]
      gcongr
    rw [toRat_rne_of_pos p hxnum, toRat_rne_of_pos p hynum, heq]
    gcongr
    exact (Ratio.nearestEven_roundTiesToEven (Ratio.scale_den_pos hx _)).mono
      (Ratio.nearestEven_roundTiesToEven (Ratio.scale_den_pos hy _)) hscaled
  · calc (rne p x).toRat ≤ 2 ^ (x.exponent + 1) := (toRat_rne_bracket hp hxnum hx).2
      _ ≤ 2 ^ y.exponent := zpow_le_zpow_right₀ one_le_two hlt
      _ ≤ (rne p y).toRat := (toRat_rne_bracket hp hynum hy).1

/-- A rounded value is a normal number: `m * 2^(e-p+1)` with a significand `m` of exactly `p` bits. -/
theorem exists_significand_of_rne {p : ℕ} (hp : 1 ≤ p) {x : Ratio} (hnum : 0 < x.num) (hden : 0 < x.den) :
    ∃ (m : ℕ) (e : ℤ), 2 ^ (p - 1) ≤ m ∧ m < 2 ^ p ∧ (rne p x).toRat = m * 2 ^ (e - p + 1) := by
  obtain ⟨hlow, hhigh⟩ := roundTiesToEven_significand_bracket hp hnum hden
  have hrne := toRat_rne_of_pos p hnum
  obtain htop | hlt := hhigh.eq_or_lt
  · refine ⟨2 ^ (p - 1), x.exponent + 1, le_rfl, Nat.pow_lt_pow_right one_lt_two (by omega), ?_⟩
    rw [hrne, htop, ← two_zpow_eq_natCast_mul rfl, ← two_zpow_eq_natCast_mul rfl]
    congr 1
    omega
  · exact ⟨_, x.exponent, hlow, hlt, hrne⟩

/-! ### The pattern -/

theorem log_two_of_significand {p m : ℕ} {e : ℤ} {q : ℚ} (hp : 1 ≤ p) (hlow : 2 ^ (p - 1) ≤ m) (hhigh : m < 2 ^ p)
    (hq : q = m * 2 ^ (e - p + 1)) : Int.log 2 q = e := by
  apply log_two_eq_of_bracket
  · rw [two_zpow_eq_natCast_mul (by omega : e = (p - 1 : ℕ) + (e - p + 1)), hq]
    gcongr
  · rw [two_zpow_eq_natCast_mul (by omega : e + 1 = p + (e - p + 1)), hq]
    gcongr

/-- The pattern of `m * 2^(e-p+1)` is the biased exponent, then the significand without its leading bit. -/
theorem formatBits_of_significand {p m : ℕ} {e : ℤ} {r : Ratio} (bias : ℕ) (hp : 1 ≤ p) (hden : 0 < r.den)
    (hlow : 2 ^ (p - 1) ≤ m) (hhigh : m < 2 ^ p) (hr : r.toRat = m * 2 ^ (e - p + 1)) :
    formatBits p bias r = (e + bias).toNat * 2 ^ (p - 1) + (m - 2 ^ (p - 1)) := by
  have hm : 0 < m := (Nat.two_pow_pos _).trans_le hlow
  have hnum : 0 < r.num := Ratio.num_pos_of_toRat_pos (by rw [hr]; positivity)
  have hexp : r.exponent = e := (Ratio.exponent_eq_log hnum hden).trans (log_two_of_significand hp hlow hhigh hr)
  have hscaled : (r.scale (((p - 1 : ℕ) : ℤ) - e)).toRat = m := by
    rw [Ratio.toRat_scale, hr, mul_assoc, ← zpow_add₀ two_ne_zero,
      (by omega : e - p + 1 + (((p - 1 : ℕ) : ℤ) - e) = 0), zpow_zero, mul_one]
  have hsignificand : (r.scale (((p - 1 : ℕ) : ℤ) - e)).num / (r.scale (((p - 1 : ℕ) : ℤ) - e)).den = m := by
    rw [← Nat.floor_div_eq_div (K := ℚ), ← Ratio.toRat, hscaled, Nat.floor_natCast]
  have hfrac : m - 2 ^ (p - 1) < 2 ^ (p - 1) := by
    have := Nat.two_pow_pred_add_two_pow_pred hp
    omega
  simp only [formatBits, if_neg hnum.ne', hexp, hsignificand]
  rw [← Nat.shiftLeft_add_eq_or_of_lt hfrac, Nat.shiftLeft_eq]

end Sys2Proof.Machine
end

section
/-! PROOFS. The float slice `unit32` (spec/43_slice_float.md R55, R57, R58): it is monotone, its pattern denotes its value, and
its value is 1 exactly on the fault set. -/

namespace Sys2Proof.Machine

/-! ### The value -/

theorem unit32_den_pos (u : Word32) : 0 < (unit32 u).den := rne_den_pos _ _

theorem unit32_mono {u u' : Word32} (h : u.toNat ≤ u'.toNat) : (unit32 u).toRat ≤ (unit32 u').toRat := by
  have hdivisor : 0 < 1 * Config.divisor := by decide
  refine toRat_rne_mono (by decide) (rne_den_pos _ _) (rne_den_pos _ _) (toRat_rne_mono (by decide) hdivisor hdivisor ?_)
  exact (Ratio.toRat_le_toRat_iff hdivisor hdivisor).mpr (Nat.mul_le_mul_right _ h)

theorem unit32_toRat_eq_div {u : Word32} {a b : ℕ} (hb : b ≠ 0) (h : (unit32 u).num * b = a * (unit32 u).den) :
    (unit32 u).toRat = a / b := by
  rw [Ratio.toRat, div_eq_div_iff (Nat.cast_ne_zero.mpr (unit32_den_pos u).ne') (Nat.cast_ne_zero.mpr hb)]
  exact_mod_cast h

/-- R58, item 2: the least and the greatest value of a non-zero input. -/
theorem unit32_toRat_range {u : Word32} (hu : u ≠ 0) : (2 : ℚ) ^ (-32 : ℤ) ≤ (unit32 u).toRat ∧ (unit32 u).toRat ≤ 1 := by
  have hmin : (unit32 1).toRat = (1 : ℕ) / (2 ^ 32 : ℕ) := unit32_toRat_eq_div (by decide) (by decide)
  have hmax : (unit32 0xFFFFFFFF).toRat = (1 : ℕ) / (1 : ℕ) := unit32_toRat_eq_div (by decide) (by decide)
  have hlow : (unit32 1).toRat ≤ (unit32 u).toRat :=
    unit32_mono (Nat.one_le_iff_ne_zero.mpr fun h => hu (BitVec.eq_of_toNat_eq h))
  have hhigh : (unit32 u).toRat ≤ (unit32 0xFFFFFFFF).toRat := unit32_mono (Nat.le_of_lt_succ u.isLt)
  rw [hmin] at hlow
  rw [hmax] at hhigh
  norm_num at hlow hhigh ⊢
  exact ⟨hlow, hhigh⟩

/-! ### The pattern -/

/-- The pattern of a normal binary32 value `m * 2^(E-150)`: exponent field `E`, then the fraction. -/
theorem f32Bits_of_significand {m E : ℕ} {r : Ratio} (hden : 0 < r.den) (hlow : 2 ^ 23 ≤ m) (hhigh : m < 2 ^ 24)
    (hE : E ≤ 254) (hr : r.toRat = m * 2 ^ ((E : ℤ) - 150)) : (f32Bits r).toNat = E * 2 ^ 23 + (m - 2 ^ 23) := by
  have hexp : ((E : ℤ) - 127) - (24 : ℕ) + 1 = (E : ℤ) - 150 := by omega
  have hformat : formatBits 24 127 r = ((E : ℤ) - 127 + (127 : ℕ)).toNat * 2 ^ 23 + (m - 2 ^ 23) :=
    formatBits_of_significand 127 (by decide) hden hlow hhigh (by rw [hexp, hr])
  have hfield : ((E : ℤ) - 127 + (127 : ℕ)).toNat = E := by omega
  rw [hfield] at hformat
  rw [f32Bits, BitVec.toNat_ofNat, Config.binary32Precision, Config.binary32Bias, hformat]
  exact Nat.mod_eq_of_lt (by omega)

/-- R58, item 2: for `u > 0` the value is a normal number, with exponent field from 95 to 127. -/
theorem unit32_normal {u : Word32} (hu : u ≠ 0) :
    ∃ m E : ℕ, (2 ^ 23 ≤ m ∧ m < 2 ^ 24) ∧ (95 ≤ E ∧ E ≤ 127) ∧ (unit32 u).toRat = m * 2 ^ ((E : ℤ) - 150) := by
  obtain ⟨hmin, hmax⟩ := unit32_toRat_range hu
  have hpos : 0 < (unit32 u).toRat := (zpow_pos two_pos _).trans_le hmin
  have hquotient : 0 < (quotient64 u).num := num_pos_of_toRat_rne_pos hpos
  obtain ⟨m, e, hlow, hhigh, hvalue⟩ :=
    exists_significand_of_rne (by decide : 1 ≤ Config.binary32Precision) hquotient (rne_den_pos _ _)
  have hlog : Int.log 2 (unit32 u).toRat = e := log_two_of_significand (by decide) hlow hhigh hvalue
  have heLow : -32 ≤ e := hlog ▸ (Int.zpow_le_iff_le_log one_lt_two hpos).mp hmin
  have heHigh : e < 1 := hlog ▸ (Int.lt_zpow_iff_log_lt one_lt_two hpos).mp (hmax.trans_lt (by norm_num))
  have hfield : e - Config.binary32Precision + 1 = ((e + 127).toNat : ℤ) - 150 := by
    rw [Config.binary32Precision]
    omega
  exact ⟨m, (e + 127).toNat, ⟨hlow, hhigh⟩, by omega, hfield ▸ hvalue⟩

theorem f32Bits_unit32_zero : f32Bits (unit32 0) = 0 := by decide

/-- Settles O41: a non-zero value is normal, and its pattern holds the two parts of its normal form. -/
theorem patternDenotesTheValue : Obligations.PatternDenotesTheValue := by
  refine ⟨f32Bits_unit32_zero, fun u hu => ?_⟩
  obtain ⟨m, E, ⟨hlow, hhigh⟩, hE, hvalue⟩ := unit32_normal hu
  have hbits := f32Bits_of_significand (unit32_den_pos u) hlow hhigh (by omega) hvalue
  have hfraction : 2 ^ 23 + (f32Bits (unit32 u)).toNat % 2 ^ 23 = m := by omega
  have hfield : (f32Bits (unit32 u)).toNat / 2 ^ 23 = E := by omega
  rw [hfraction, hfield]
  refine ⟨?value, hE⟩
  case value =>
    have hden : ((unit32 u).den : ℚ) ≠ 0 := Nat.cast_ne_zero.mpr (unit32_den_pos u).ne'
    rw [zpow_sub₀ two_ne_zero, zpow_natCast, Ratio.toRat, mul_div_assoc', div_eq_div_iff hden (by positivity)] at hvalue
    exact_mod_cast hvalue

/-! ### The fault set -/

theorem unit32_toRat_of_faultSet {u : Word32} (hu : 0xFFFFFF7F ≤ u.toNat) : (unit32 u).toRat = 1 := by
  have hleast : (unit32 0xFFFFFF7F).toRat = (1 : ℕ) / (1 : ℕ) := unit32_toRat_eq_div (by decide) (by decide)
  rw [Nat.cast_one, div_one] at hleast
  refine le_antisymm (unit32_toRat_range ?_).2 (hleast.symm.trans_le (unit32_mono hu))
  rintro rfl
  exact absurd hu (by decide)

theorem unit32_toRat_below_faultSet {u : Word32} (hu : u.toNat ≤ 0xFFFFFF7E) :
    (unit32 u).toRat ≤ (2 ^ 24 - 1 : ℕ) / (2 ^ 24 : ℕ) := by
  have hgreatest : (unit32 0xFFFFFF7E).toRat = (2 ^ 24 - 1 : ℕ) / (2 ^ 24 : ℕ) := unit32_toRat_eq_div (by decide) (by decide)
  exact (unit32_mono hu).trans_eq hgreatest

theorem Ratio.inUnitInterval_iff (r : Ratio) : r.inUnitInterval = true ↔ 0 < r.den ∧ r.num < r.den := by
  rw [Ratio.inUnitInterval, Bool.and_eq_true, decide_eq_true_iff, decide_eq_true_iff]

theorem Ratio.inUnitInterval_iff_toRat_lt_one {r : Ratio} (hden : 0 < r.den) : r.inUnitInterval = true ↔ r.toRat < 1 := by
  rw [← Nat.cast_one, Ratio.toRat_lt_natCast_iff hden, one_mul, Ratio.inUnitInterval_iff, and_iff_right hden]

theorem inUnitInterval_unit32_iff (u : Word32) : (unit32 u).inUnitInterval = true ↔ u.toNat ≤ 0xFFFFFF7E := by
  rw [Ratio.inUnitInterval_iff_toRat_lt_one (unit32_den_pos u)]
  refine ⟨fun hlt => ?_, fun hu => (unit32_toRat_below_faultSet hu).trans_lt (by norm_num)⟩
  by_contra hu
  exact hlt.ne (unit32_toRat_of_faultSet (by omega))

theorem f32Bits_of_toRat_one {r : Ratio} (hden : 0 < r.den) (hr : r.toRat = 1) : f32Bits r = 0x3F800000 :=
  BitVec.eq_of_toNat_eq ((f32Bits_of_significand (m := 2 ^ 23) (E := 127) hden (by decide) (by decide) (by decide)
    (by rw [hr]; norm_num)).trans (by decide))

/-- R58, item 1: a value below 1 has an exponent field below 127. -/
theorem f32Bits_unit32_le {u : Word32} (hu : u.toNat ≤ 0xFFFFFF7E) : (f32Bits (unit32 u)).toNat ≤ 0x3F7FFFFF := by
  obtain rfl | hne := eq_or_ne u 0
  · rw [f32Bits_unit32_zero]
    decide
  obtain ⟨m, E, ⟨hlow, hhigh⟩, hE, hvalue⟩ := unit32_normal hne
  have hbits := f32Bits_of_significand (unit32_den_pos u) hlow hhigh (by omega) hvalue
  have hlt : E ≠ 127 := by
    rintro rfl
    have hsmall := (unit32_toRat_below_faultSet hu).trans_lt (by norm_num : _ < (1 : ℚ))
    have hm : (2 ^ 23 : ℚ) ≤ m := by exact_mod_cast hlow
    rw [hvalue] at hsmall
    norm_num at hsmall
    linarith
  omega

/-- Settles O40: the fault set begins where the value reaches 1, and by monotonicity its two ends decide the rest. -/
theorem faultSetIsExact : Obligations.FaultSetIsExact := by
  intro u
  have hden := unit32_den_pos u
  refine ⟨?faults, fun hu => ⟨?one, f32Bits_of_toRat_one hden (unit32_toRat_of_faultSet hu)⟩,
    fun hu => ⟨f32Bits_unit32_le hu, ?below⟩⟩
  case faults =>
    rw [← Bool.not_eq_true, inUnitInterval_unit32_iff]
    omega
  case one =>
    have hone := unit32_toRat_of_faultSet hu
    rw [Ratio.toRat, div_eq_one_iff_eq (Nat.cast_ne_zero.mpr hden.ne')] at hone
    exact_mod_cast hone
  case below =>
    have hbelow := unit32_toRat_below_faultSet hu
    rw [Ratio.toRat, div_le_div_iff₀ (Nat.cast_pos.mpr hden) (by positivity)] at hbelow
    exact_mod_cast hbelow

/-! ### Monotone, many to one -/

theorem f32Bits_of_toRat_half {r : Ratio} (hden : 0 < r.den) (hr : r.toRat = (1 : ℕ) / (2 : ℕ)) : f32Bits r = 0x3F000000 :=
  BitVec.eq_of_toNat_eq ((f32Bits_of_significand (m := 2 ^ 23) (E := 126) hden (by decide) (by decide) (by decide)
    (by rw [hr]; norm_num)).trans (by decide))

/-- Settles O42: both roundings are monotone, and the two ends of the range both have the value 0.5. -/
theorem uniformIsMonotone : Obligations.UniformIsMonotone := by
  refine ⟨fun u u' h => (Ratio.toRat_le_toRat_iff (unit32_den_pos u) (unit32_den_pos u')).mp (unit32_mono h),
    fun u hlow hhigh => f32Bits_of_toRat_half (unit32_den_pos u) (le_antisymm ?_ ?_)⟩
  · have hgreatest : (unit32 0x8000007F).toRat = (1 : ℕ) / (2 : ℕ) := unit32_toRat_eq_div (by decide) (by decide)
    exact (unit32_mono hhigh).trans_eq hgreatest
  · have hleast : (unit32 0x7FFFFFC0).toRat = (1 : ℕ) / (2 : ℕ) := unit32_toRat_eq_div (by decide) (by decide)
    exact hleast.symm.trans_le (unit32_mono hlow)

end Sys2Proof.Machine
end

section
/-! PROOFS. NEXT_UNIFORM (spec/43_slice_float.md R56, R57): where it returns and where it faults, and the seed that reaches each
value of the slice. -/

namespace Sys2Proof.Machine

/-! ### NEXT_UNIFORM on a usable block -/

theorem exec_nextUniform_of_inUnitInterval {s : State} {v : Word48} (hfault : s.fault = none) (hstate : s.state = some v)
    (hin : (unit32 (hi32 (muladd48 v))).inUnitInterval = true) :
    exec .nextUniform s = .next { s with
      state := some (muladd48 v), response := some (.ok (floatData (f32Bits (unit32 (hi32 (muladd48 v)))))) } := by
  rw [exec_of_usable rfl hfault hstate, stepSlice, uniformSlice, if_pos hin]
  rfl

theorem exec_nextUniform_of_not_inUnitInterval {s : State} {v : Word48} (hfault : s.fault = none)
    (hstate : s.state = some v) (hout : (unit32 (hi32 (muladd48 v))).inUnitInterval ≠ true) :
    exec .nextUniform s = .next { s with
      state := some (muladd48 v), fault := some .unitInterval, response := some (.fault .unitInterval) } := by
  rw [exec_of_usable rfl hfault hstate, stepSlice, uniformSlice, if_neg hout]
  rfl

/-- Settles O20: the two branches of the assertion, read as its two conjuncts. -/
theorem nextUniformReturnsOrFaults : Obligations.NextUniformReturnsOrFaults := by
  intro s v hfault hstate
  refine ⟨muladd48 v, muladd48_toNat v, ?_⟩
  simp only [← Ratio.inUnitInterval_iff]
  split
  case isTrue hin => exact exec_nextUniform_of_inUnitInterval hfault hstate hin
  case isFalse hout => exact exec_nextUniform_of_not_inUnitInterval hfault hstate hout

theorem hi32_muladd48_toNat (v : Word48) : (hi32 (muladd48 v)).toNat = (25214903917 * v.toNat + 11) % 2 ^ 48 / 65536 :=
  (hi32_toNat _).trans (congrArg (· / 65536) (muladd48_toNat v))

theorem floatData_toNat (pattern : Word32) : (floatData pattern).toNat = pattern.toNat :=
  BitVec.toNat_setWidth_of_le (by decide)

/-- Settles O21: below the fault set the assertion holds. -/
theorem nextUniformReturnsBelowTheFaultSet : Obligations.NextUniformReturnsBelowTheFaultSet := by
  intro s v hfault hstate hbelow
  rw [← hi32_muladd48_toNat] at hbelow
  refine ⟨muladd48 v, floatData (f32Bits (unit32 (hi32 (muladd48 v)))), muladd48_toNat v, floatData_toNat _, ?bound,
    exec_nextUniform_of_inUnitInterval hfault hstate ((inUnitInterval_unit32_iff _).mpr hbelow)⟩
  case bound =>
    rw [floatData_toNat]
    exact f32Bits_unit32_le hbelow

/-- Settles O22: on the fault set the assertion fails. -/
theorem nextUniformFaultsOnTheFaultSet : Obligations.NextUniformFaultsOnTheFaultSet := by
  intro s v hfault hstate hfaultSet
  rw [← hi32_muladd48_toNat] at hfaultSet
  refine ⟨muladd48 v, muladd48_toNat v, exec_nextUniform_of_not_inUnitInterval hfault hstate fun hin => ?_⟩
  have := (inUnitInterval_unit32_iff _).mp hin
  omega

/-! ### Every slice is a first output -/

theorem hi32_append (u : Word32) (low : BitVec 16) : hi32 (u ++ low) = u := BitVec.extractLsb'_append_eq_left

theorem hi32_append_extractLow (s : Word48) : hi32 s ++ s.extractLsb' 0 16 = s :=
  (BitVec.extractLsb'_append_extractLsb'_eq_extractLsb' (by decide)).trans BitVec.extractLsb'_eq_self

theorem scramble_setWidth (k : Word32) : scramble (k.setWidth 64) = k ++ Config.scrambleConstant := by
  rw [scramble, BitVec.extractLsb'_setWidth_of_le (by decide), BitVec.extractLsb'_eq_self]

/-- R57's construction: the inverse step of `u` above the low bits of a first step result. -/
def stateBefore (u : Word32) : Word48 := 0xDFE05BCB1365#48 * ((u ++ 0x5101#16) - 0xB#48)

theorem muladd48_stateBefore (u : Word32) : muladd48 (stateBefore u) = u ++ 0x5101#16 := muladd48_inverse _

/-- The low bits of the inverse step depend on the low bits only. -/
theorem stateBefore_extractLow (u : Word32) : (stateBefore u).extractLsb' 0 16 = Config.scrambleConstant := by
  have hlow : (u ++ 0x5101#16).setWidth 16 = 0x5101#16 := BitVec.setWidth_append_eq_right
  rw [stateBefore, ← BitVec.setWidth_eq_extractLsb' (by decide), BitVec.setWidth_mul _ _ (by decide), BitVec.sub_eq_add_neg,
    BitVec.setWidth_add _ _ (by decide), hlow]
  decide

theorem scramble_hi32_stateBefore (u : Word32) : scramble ((hi32 (stateBefore u)).setWidth 64) = stateBefore u := by
  rw [scramble_setWidth, ← stateBefore_extractLow u, hi32_append_extractLow]

theorem stateBefore_hi32_firstStep (k : Word32) :
    stateBefore (hi32 (muladd48 (scramble (k.setWidth 64)))) = scramble (k.setWidth 64) := by
  have hlow : (muladd48 (scramble (k.setWidth 64))).extractLsb' 0 16 = 0x5101#16 := (lowBitsSameForEverySeed _).1
  rw [stateBefore, ← hlow, hi32_append_extractLow, inverse_muladd48]

theorem hi32_firstStep_eq_iff (k u : Word32) :
    hi32 (muladd48 (scramble (k.setWidth 64))) = u ↔ k = hi32 (stateBefore u) := by
  constructor
  · rintro rfl
    rw [stateBefore_hi32_firstStep, scramble_setWidth, hi32_append]
  · rintro rfl
    rw [scramble_hi32_stateBefore, muladd48_stateBefore, hi32_append]

/-- Settles O43: the step is a bijection, so the seed of a first output is the one that the inverse step gives. -/
theorem everyFirstOutputIsReachable : Obligations.EveryFirstOutputIsReachable :=
  fun u => ⟨⟨hi32 (stateBefore u), (hi32_firstStep_eq_iff _ u).mpr rfl, fun k => (hi32_firstStep_eq_iff k u).mp⟩,
    (hi32_firstStep_eq_iff _ u).mpr rfl⟩

end Sys2Proof.Machine
end

section
/-! PROOFS. The faults (spec/60_exceptions.md R61 to R65): a fault held refuses every command until reset, an idle block keeps its
registers (R68), which command raises what, and the invariant that every step keeps. -/

namespace Sys2Proof.Machine

/-! ### Nothing presented, and an unseeded block -/

/-- Settles O14: an idle step writes the response only. -/
theorem idleKeepsTheRegisters : Obligations.IdleKeepsTheRegisters := fun _ hinputs => step_of_idle hinputs

/-- Settles O23: a command other than SEED is a step command, and its second check raises NOT_SEEDED. -/
theorem unseededStepRaisesNotSeeded : Obligations.UnseededStepRaisesNotSeeded := by
  intro i s hnotSeed hfault hstate
  obtain ⟨a, hseed⟩ | hi := eq_seed_or_isStepCommand i
  · exact absurd hseed (hnotSeed a)
  · exact exec_of_unseeded hi hfault hstate

/-! ### A fault held -/

theorem exec_eq_execute_encode (i : Instr) (s : State) : exec i s = execute (encode i) s :=
  (execute_of_decoded (decode_encode i) s).symm

/-- Settles O24: the dispatch refuses before it decodes, so the word of an instruction is refused as any other; reset clears both
registers. -/
theorem faultedBlockRefusesEveryCommand : Obligations.FaultedBlockRefusesEveryCommand := by
  refine fun s held hfault => ⟨execute_of_faulted hfault, fun i => ?instr, fun rest hinputs => ?reset⟩
  case instr => exact (exec_eq_execute_encode i s).trans (execute_of_faulted hfault _)
  case reset => exact ⟨_, step_of_reset hinputs, assertReset_fault _, assertReset_state _⟩

theorem step_of_command_of_faulted {s : State} {held : Cause} {c : Cmd} {rest : List HostInput}
    (hfault : s.fault = some held) (hinputs : s.inputs = .command c :: rest) :
    step s = .next (refuse held { s with inputs := rest }) :=
  (step_of_command hinputs).trans (execute_of_faulted (s := { s with inputs := rest }) hfault c)

/-- Settles O46, by induction on the commands: each is refused, which leaves the fault to the next. -/
theorem faultIsStickyUntilReset : Obligations.FaultIsStickyUntilReset := by
  intro cs
  induction cs with
  | nil =>
    rintro s held rest - rfl
    rfl
  | cons c cs ih =>
    intro s held rest hfault hinputs
    have hstep := step_of_command_of_faulted hfault hinputs
    have hrest := ih (refuse held { s with inputs := cs.map .command ++ rest }) held rest hfault rfl
    simpa [refuse, respond] using (runSteps_succ_of_step hstep cs.length).trans hrest

/-! ### Which command raises what -/

/-- What a step command does with its step result `v`: it delivers its slice, and only NEXT_UNIFORM, on the fault set of R57,
raises instead. -/
theorem stepSlice_delivers_or_raises {i : Instr} (hi : isStepCommand i = true) (v : Word48) (s : State) :
    (stepSlice i v s = respond (.ok (sliceData i v)) s ∧ (i = .nextUniform → (hi32 v).toNat < 0xFFFFFF7F)) ∨
    (stepSlice i v s = raiseFault .unitInterval s ∧ i = .nextUniform ∧ 0xFFFFFF7F ≤ (hi32 v).toNat) := by
  cases i with
  | seed => cases hi
  | rawNext | nextU32 | nextI32 => exact .inl ⟨rfl, nofun⟩
  | nextUniform =>
    have hbound := inUnitInterval_unit32_iff (hi32 v)
    obtain ⟨hin, hok⟩ | ⟨hout, hraise⟩ := uniformSlice_cases v s
    · exact .inl ⟨hok, fun _ => Nat.lt_succ_of_le (hbound.mp hin)⟩
    · exact .inr ⟨hraise, rfl, Nat.lt_of_not_le fun hle => by cases hout.symm.trans (hbound.mpr hle)⟩

namespace CommandEffect

variable {c : Cmd} {i : Instr} {s t : State}

theorem keeps_state_of_faulted (h : CommandEffect c s t) (hheld : s.fault ≠ none) : t.state = s.state := by
  cases h with
  | refused => rfl
  | illegal hfault | seed hfault | unseeded hfault | stepped hfault => exact absurd hfault hheld

/-- A legal command that writes `fault` is a step command: on an unseeded block it records NOT_SEEDED and performs no step, on a
seeded one it is NEXT_UNIFORM and records UNIT_INTERVAL. -/
theorem writes_fault (h : CommandEffect c s t) (hdecode : decode c = .ok i) (hwrites : t.fault ≠ s.fault) :
    isStepCommand i = true ∧
      ((s.state = none ∧ t.state = none ∧ t.fault = some .notSeeded) ∨
        (i = .nextUniform ∧ s.state ≠ none ∧ t.state ≠ none ∧ t.fault = some .unitInterval)) := by
  cases h with
  | refused | seed => exact absurd rfl hwrites
  | illegal _ hillegal => cases hdecode.symm.trans hillegal
  | unseeded _ hdecode' hi hstate =>
    cases hdecode.symm.trans hdecode'
    exact ⟨hi, .inl ⟨hstate, hstate, rfl⟩⟩
  | @stepped _ v _ hdecode' hi hstate =>
    cases hdecode.symm.trans hdecode'
    obtain ⟨heq, -⟩ | ⟨heq, huniform, -⟩ := stepSlice_delivers_or_raises hi (muladd48 v) (writeState (muladd48 v) s)
    · rw [heq] at hwrites
      exact absurd rfl hwrites
    · rw [heq]
      exact ⟨hi, .inr ⟨huniform, by simp [hstate], by simp, rfl⟩⟩

end CommandEffect

/-- Settles O26: a command keeps the inputs, a fault held and the state beside it, and `writes_fault` says what else it may do to
`fault`. -/
theorem commandsLeaveTheRestUnchanged : Obligations.CommandsLeaveTheRestUnchanged := by
  intro i s t h
  have heffect : CommandEffect (encode i) s t := commandEffect_of_execute ((exec_eq_execute_encode i s).symm.trans h)
  have hwrites := heffect.writes_fault (decode_encode i)
  refine ⟨heffect.keeps_inputs, fun hheld => ⟨heffect.keeps_fault hheld, heffect.keeps_state_of_faulted hheld⟩,
    ?seed, ?integer, ?uniform⟩
  case seed =>
    rintro a rfl
    by_contra hne
    cases (hwrites hne).1
  case integer =>
    intro hi hne
    obtain ⟨-, hunseeded | ⟨rfl, -⟩⟩ := hwrites hne
    · exact hunseeded
    · simp at hi
  case uniform => exact fun _ hne => (hwrites hne).2.imp_right And.right

/-! ### The invariant -/

theorem consistent_iff (s : State) :
    s.consistent = true ↔ s.faultExplained = true ∧ s.responseAgrees = true ∧ s.responseFromState = true := by
  rw [State.consistent, Bool.and_eq_true, Bool.and_eq_true, and_assoc]

theorem faultExplained_of_clear {s : State} (hfault : s.fault = none) : s.faultExplained = true := by
  simp only [State.faultExplained, hfault]

/-- The value that a step command delivers is the slice of the state it leaves (R36); NEXT_UNIFORM delivers one below the fault
set only (R57). -/
theorem responseFromState_of_slice {i : Instr} {v : Word48} {s : State} (hi : isStepCommand i = true)
    (hbound : i = .nextUniform → (hi32 v).toNat < 0xFFFFFF7F) (hstate : s.state = some v) :
    (respond (.ok (sliceData i v)) s).responseFromState = true := by
  cases i with
  | seed => cases hi
  | rawNext | nextU32 | nextI32 => simp [State.responseFromState, hstate, sliceData]
  | nextUniform => simp [State.responseFromState, hstate, sliceData, hbound rfl]

namespace CommandEffect

variable {c : Cmd} {s t : State}

/-- NOT_SEEDED is raised beside an unseeded register, UNIT_INTERVAL beside a step result of the fault set (R61, R63). -/
theorem explains_fault (h : CommandEffect c s t) (hs : s.faultExplained = true) : t.faultExplained = true := by
  cases h with
  | refused => exact hs
  | illegal => rfl
  | seed hfault => exact faultExplained_of_clear hfault
  | unseeded _ _ _ hstate => simp [State.faultExplained, hstate]
  | @stepped i v hfault _ hi =>
    obtain ⟨heq, -⟩ | ⟨heq, -, hbound⟩ := stepSlice_delivers_or_raises hi (muladd48 v) (writeState (muladd48 v) s)
    · rw [heq]
      exact faultExplained_of_clear hfault
    · rw [heq]
      simpa [State.faultExplained] using hbound

theorem response_agrees (h : CommandEffect c s t) : t.responseAgrees = true := by
  obtain ⟨r, hr, hstatus⟩ := h.responds
  simp [State.responseAgrees, hr, hstatus]

/-- Only SEED responds Done, beside a scrambled seed (R42), and only a completed step delivers a value. -/
theorem response_from_state (h : CommandEffect c s t) : t.responseFromState = true := by
  cases h with
  | refused | illegal | unseeded => rfl
  | @seed a => simp [State.responseFromState, seedGenerator, scramble_extractLow]
  | @stepped i v _ _ hi =>
    obtain ⟨heq, hbound⟩ | ⟨heq, -⟩ := stepSlice_delivers_or_raises hi (muladd48 v) (writeState (muladd48 v) s)
    · rw [heq]
      exact responseFromState_of_slice hi hbound rfl
    · rw [heq]
      rfl

end CommandEffect

/-- Settles O50, by the three kinds of step: an idle block keeps the registers and gives no response, a command keeps each of the
three parts, and after reset there is neither a fault nor a response. -/
theorem everyStepKeepsConsistency : Obligations.EveryStepKeepsConsistency := by
  intro s t hs h
  obtain ⟨hexplained, -, -⟩ := (consistent_iff s).mp hs
  obtain ⟨-, rfl⟩ | ⟨rest, c, -, heffect⟩ | ⟨-, rfl⟩ := step_cases h
  · exact (consistent_iff _).mpr ⟨hexplained, rfl, rfl⟩
  · exact (consistent_iff t).mpr
      ⟨heffect.explains_fault hexplained, heffect.response_agrees, heffect.response_from_state⟩
  · exact consistent_of_noFault_of_noResponse rfl rfl

end Sys2Proof.Machine
end

section
/-! PROOFS. Reset and hazards (spec/70_reset_and_hazards.md): reset leaves nothing behind (R70), and a host that issues no
NEXT_UNIFORM keeps a usable block usable (R71). -/

namespace Sys2Proof.Machine

/-! ### Reset -/

/-- Settles O13: both forms of reset make the same step, which writes every field but the inputs. -/
theorem resetErasesEverything : Obligations.ResetErasesEverything := by
  rintro s c rest (hreset | hduring)
  · exact step_of_reset hreset
  · exact step_of_resetDuring hduring

/-! ### A usable block -/

theorem usable_iff (s : State) : s.usable = true ↔ s.state ≠ none ∧ s.fault = none := by
  rw [State.usable, Bool.and_eq_true, Option.isSome_iff_ne_none, Option.isNone_iff_eq_none]

/-- The last step gave a response, and it was no fault. -/
def RespondedWithoutFault (s : State) : Prop := ∃ r, s.response = some r ∧ ∀ c, r ≠ .fault c

namespace CommandEffect

variable {c : Cmd} {i : Instr} {s t : State}

/-- On a seeded block NEXT_UNIFORM is the only legal command that records a fault. -/
theorem keeps_usable (h : CommandEffect c s t) (hdecode : decode c = .ok i) (hi : i ≠ .nextUniform)
    (hs : s.usable = true) : t.usable = true := by
  obtain ⟨hseeded, hclear⟩ := (usable_iff s).mp hs
  have hfault : t.fault = s.fault := by
    by_contra hwrites
    obtain ⟨-, ⟨hunseeded, -⟩ | ⟨huniform, -⟩⟩ := h.writes_fault hdecode hwrites
    · exact hseeded hunseeded
    · exact hi huniform
  exact (usable_iff t).mpr ⟨h.keeps_seeded hseeded, hfault.trans hclear⟩

/-- The status of the response is the code in `fault`, and that of a response which is a fault is never 0 (R36). -/
theorem responds_without_fault (h : CommandEffect c s t) (hclear : t.fault = none) : RespondedWithoutFault t := by
  obtain ⟨r, hr, hstatus⟩ := h.responds
  exact ⟨r, hr, (statusField_eq_zero_iff r).mp (hstatus.trans (faultO_of_fault_eq_none hclear))⟩

end CommandEffect

/-! ### A host that issues no NEXT_UNIFORM -/

theorem step_of_present_of_usable {i : Instr} {s : State} {rest : List HostInput} (hi : i ≠ .nextUniform)
    (hs : s.usable = true) (hinputs : s.inputs = present i :: rest) :
    ∃ t, step s = .next t ∧ t.usable = true ∧ t.inputs = rest ∧ RespondedWithoutFault t := by
  obtain ⟨t, ht, heffect⟩ := execute_effect (encode i) { s with inputs := rest }
  have husable : t.usable = true := heffect.keeps_usable (decode_encode i) hi hs
  exact ⟨t, (step_of_command hinputs).trans ht, husable, heffect.keeps_inputs,
    heffect.responds_without_fault ((usable_iff t).mp husable).2⟩

/-- By induction on the commands. That the last response is no fault is carried from one command to the next, so that the empty
run keeps it too. -/
theorem runSteps_of_usable {is : List Instr} {s : State} {rest : List HostInput} (his : ∀ i ∈ is, i ≠ .nextUniform)
    (hs : s.usable = true) (hinputs : s.inputs = is.map present ++ rest) :
    ∃ t, runSteps is.length s = .next t ∧ t.usable = true ∧ t.inputs = rest ∧
      (is ≠ [] ∨ RespondedWithoutFault s → RespondedWithoutFault t) := by
  induction is generalizing s with
  | nil => exact ⟨s, runSteps_zero s, hs, hinputs, fun h => h.resolve_left (absurd rfl)⟩
  | cons i is ih =>
    obtain ⟨hi, his⟩ := List.forall_mem_cons.mp his
    obtain ⟨t, ht, husable, hremain, hresponded⟩ := step_of_present_of_usable hi hs hinputs
    obtain ⟨u, hu, hlast, hrest, hkeeps⟩ := ih his husable hremain
    exact ⟨u, (runSteps_succ_of_step ht _).trans hu, hlast, hrest, fun _ => hkeeps (.inr hresponded)⟩

/-- Settles O47, from the run above: a run of at least one command ends with a response of its own. -/
theorem integerHostNeverFaults : Obligations.IntegerHostNeverFaults := by
  intro is s rest hs his hinputs
  obtain ⟨t, ht, husable, hrest, hresponded⟩ := runSteps_of_usable his hs hinputs
  exact ⟨t, ht, husable, hrest, fun hne => hresponded (.inl hne)⟩

end Sys2Proof.Machine
end
